-- ==== Sys2Proof/Word.lean ====
section
/-! DEFINITION. The word types of the block: the 40-bit command and response words, the bytes of the display link, and
the 32-bit average registers (spec/30_encoding.md R61 and R64, spec/20_memory.md R40, spec/10_state.md R10). -/

namespace Sys2Proof

/-- One byte handed to the display link, and one display register (R40, R44). -/
abbrev Byte := BitVec 8

/-- A command word, format CMD: `op` [39:36], `aux` [35:32], `arg` [31:0] (R61). -/
abbrev CmdWord := BitVec 40

/-- A response word, format RSP: `code` [39:36], `dp` [35:32], `value` [31:0] (R64). -/
abbrev RspWord := BitVec 40

/-- The width of every average register and of the elapsed-cycle count (R10, R105). -/
abbrev Acc := BitVec 32

end Sys2Proof
end

