-- ==== Sys2Proof/Syntax.lean ====
section
/-! DEFINITION. The nine operations of spec/opcode_table.json (spec/30_encoding.md R62), one constructor per row, with their
operands as R63 names them. -/

namespace Sys2Proof

/-- The five modes (R68); `Decode.lean` gives their 3-bit codes. -/
inductive Mode where
  | dc
  | frequency
  | zeroToPeak
  | peakToPeak
  | pseudoRms
  deriving DecidableEq, Repr

/-- The operations of the block (R62). They arrive as command words; there is no stored program (R1, R21). -/
inductive Instr where
  /-- SAMPLE `s`: one 12-bit ADC sample (R120). -/
  | sample (s : BitVec 12)
  /-- OVERFLOW: the timer's counter wrapped without a capture (R101). -/
  | overflow
  /-- CAPTURE `c`: the 16-bit counter value latched by an edge (R104). -/
  | capture (c : BitVec 16)
  /-- MODE `m`: mode-entry (R140). -/
  | mode (m : Mode)
  /-- RENDER: the display value of the current mode (R145). -/
  | render
  /-- TRANSMIT `a`, `v`: one transaction of the display link (R171). -/
  | transmit (a v : Byte)
  /-- DIGITS `value`, `dp`: eight decimal digits with an optional point (R176). -/
  | digits (value : BitVec 32) (dp : BitVec 4)
  /-- ERRDISP: the fixed error display (R180). -/
  | errdisp
  /-- SETUP: the display controller's initialization sequence (R184). -/
  | setup
  deriving DecidableEq, Repr

end Sys2Proof
end

