-- ==== Sys2Proof/WellFormed.lean ====
section
/-! DEFINITION. Which terms of `Instr` a legal command word can stand for. The types already bound every operand but one:
the decimal-point position of DIGITS (spec/30_encoding.md R67, R69). -/

namespace Sys2Proof

/-- A decimal-point position is legal when it is 0 (none) or 1 to 8; 9 to 15 are reserved (R69). -/
def legalPosition (dp : BitVec 4) : Bool := dp.toNat ≤ 8

/-- An instruction is well formed when R67 does not make its command word illegal. -/
def Instr.wellFormed : Instr → Bool
  | .sample _ => true
  | .overflow => true
  | .capture _ => true
  | .mode _ => true
  | .render => true
  | .transmit _ _ => true
  | .digits _ dp => legalPosition dp
  | .errdisp => true
  | .setup => true

end Sys2Proof
end

