-- ==== Sys2Proof/Decode.lean ====
section
/-! DEFINITION. The decoder of 40-bit command words, which rejects by name, and the encoder (spec/30_encoding.md R61 to R63,
R67 to R69). -/

namespace Sys2Proof

/-- The four grounds on which R67 makes a command word illegal. -/
inductive DecodeError where
  /-- `op` is 0x0 or 0xA to 0xF. -/
  | reservedOpcode
  /-- A bit marked `-` in R62 is 1. -/
  | mustBeZero
  /-- MODE with code 5, 6 or 7. -/
  | reservedMode
  /-- DIGITS with `dp` 9 to 15. -/
  | reservedPosition
  deriving DecidableEq, Repr

/-- What the decoder reads from a command word. -/
inductive Decoded where
  | legal (i : Instr)
  | illegal (e : DecodeError)
  deriving DecidableEq, Repr

/-- `op`, bits [39:36] (R61). -/
def opField (w : CmdWord) : BitVec 4 := w.extractLsb' 36 4

/-- `aux`, bits [35:32] (R61). -/
def auxField (w : CmdWord) : BitVec 4 := w.extractLsb' 32 4

/-- `arg`, bits [31:0] (R61). -/
def argField (w : CmdWord) : BitVec 32 := w.extractLsb' 0 32

/-- The mode codes of R68. -/
def modeCode : Mode → BitVec 3
  | .dc => 0
  | .frequency => 1
  | .zeroToPeak => 2
  | .peakToPeak => 3
  | .pseudoRms => 4

/-- The mode a code names; 5, 6 and 7 are reserved (R68). -/
def modeOfCode (m : BitVec 3) : Option Mode :=
  match m.toNat with
  | 0 => some .dc
  | 1 => some .frequency
  | 2 => some .zeroToPeak
  | 3 => some .peakToPeak
  | 4 => some .pseudoRms
  | _ => none

/-- An operation whose `aux` must be 0 and whose `arg` carries `n` operand bits: every other bit of `arg` must be 0 (R62). -/
def unusedZero (n : Nat) (w : CmdWord) : Bool :=
  auxField w == 0 && decide ((argField w).toNat < 2 ^ n)

/-- Accept the operation when its unused bits are 0, and reject by name otherwise (R67). -/
def whenUnusedZero (n : Nat) (w : CmdWord) (i : Instr) : Decoded :=
  if unusedZero n w then .legal i else .illegal .mustBeZero

/-- MODE: the unused bits, then the code (R62, R67, R68). -/
def decodeMode (w : CmdWord) : Decoded :=
  if unusedZero 3 w then
    match modeOfCode ((argField w).extractLsb' 0 3) with
    | some m => .legal (.mode m)
    | none => .illegal .reservedMode
  else .illegal .mustBeZero

/-- DIGITS uses every bit; only the position can be reserved (R62, R67, R69). -/
def decodeDigits (w : CmdWord) : Decoded :=
  if legalPosition (auxField w) then .legal (.digits (argField w) (auxField w))
  else .illegal .reservedPosition

/-- The decoder: total on every 40-bit word (R61, R62, R63, R67). -/
def decode (w : CmdWord) : Decoded :=
  match (opField w).toNat with
  | 1 => whenUnusedZero 12 w (.sample ((argField w).extractLsb' 0 12))
  | 2 => whenUnusedZero 0 w .overflow
  | 3 => whenUnusedZero 16 w (.capture ((argField w).extractLsb' 0 16))
  | 4 => decodeMode w
  | 5 => whenUnusedZero 0 w .render
  | 6 => whenUnusedZero 16 w (.transmit ((argField w).extractLsb' 8 8) ((argField w).extractLsb' 0 8))
  | 7 => decodeDigits w
  | 8 => whenUnusedZero 0 w .errdisp
  | 9 => whenUnusedZero 0 w .setup
  | _ => .illegal .reservedOpcode

/-- A command word from its three fields (R61). -/
def commandWord (op aux : BitVec 4) (arg : BitVec 32) : CmdWord := op ++ aux ++ arg

/-- The operation code of each row of R62. -/
def opcode : Instr → BitVec 4
  | .sample _ => 0x1
  | .overflow => 0x2
  | .capture _ => 0x3
  | .mode _ => 0x4
  | .render => 0x5
  | .transmit _ _ => 0x6
  | .digits _ _ => 0x7
  | .errdisp => 0x8
  | .setup => 0x9

/-- The encoder: the command word of an instruction, operands right-aligned in `arg`, `dp` in `aux`, unused bits 0 (R62,
R63). -/
def encode : Instr → CmdWord
  | .sample s => commandWord 0x1 0 (s.setWidth 32)
  | .overflow => commandWord 0x2 0 0
  | .capture c => commandWord 0x3 0 (c.setWidth 32)
  | .mode m => commandWord 0x4 0 ((modeCode m).setWidth 32)
  | .render => commandWord 0x5 0 0
  | .transmit a v => commandWord 0x6 0 ((a ++ v).setWidth 32)
  | .digits value dp => commandWord 0x7 dp value
  | .errdisp => commandWord 0x8 0 0
  | .setup => commandWord 0x9 0 0

/-- The instruction the decoder reads from a row's word, given as the opcode table numbers bits; a command word is one
40-bit word (R61), so a number that needs more than 40 bits is no command word. -/
def decodeTableWord (nbits w : Nat) : Option Instr :=
  let v := w % 2 ^ nbits
  if v < 2 ^ 40 then
    match decode (BitVec.ofNat 40 v) with
    | .legal i => some i
    | .illegal _ => none
  else none

end Sys2Proof
end

