-- ==== Sys2Proof/Config.lean ====
section
/-! DEFINITION. The configuration record `cfg` of spec/00_scope.md R2, field by field with the widths of its table, and the
default configuration `cfg0` of spec/92_eei_decisions.md section 3; and the one free value of the model, what an unspecified
display register holds. -/

namespace Sys2Proof

/-- One two-byte transaction of the display link: the frame word `{addr, value}` of R72, and one entry of `SETUP_SEQ` or
`ERR_SEQ` (R2). -/
structure Frame where
  addr  : Byte
  value : Byte
  deriving DecidableEq, Repr

/-- The order of bits within a byte on the data line (R45): a parameter that no rule reads. -/
inductive BitOrder where
  | msbFirst
  | lsbFirst
  deriving DecidableEq, Repr

/-- `DP_POS[m]`, one decimal-point position per mode: 0 is none, 1 to 8 a digit position (R2, R69, R154). -/
structure DpPositions where
  dc         : BitVec 4
  frequency  : BitVec 4
  zeroToPeak : BitVec 4
  peakToPeak : BitVec 4
  pseudoRms  : BitVec 4
  deriving DecidableEq, Repr

/-- The configuration record `cfg` (R2): "fixed before reset and never changes while the block runs; no operation
writes it". Which values are legal is `Machine.cfgLegal`. -/
structure Cfg where
  baseline  : BitVec 12
  shiftDc   : BitVec 4
  shiftFreq : BitVec 4
  shiftPeak : BitVec 4
  shiftRect : BitVec 4
  kV        : BitVec 16
  kF        : BitVec 32
  avgFMin   : BitVec 32
  avgFMax   : BitVec 32
  nSettle   : BitVec 8
  dpPos     : DpPositions
  tTimeout  : Nat
  tByteGap  : Nat
  setupLen  : BitVec 3
  setupSeq  : Vector Frame 5
  errSeq    : Vector Frame 4
  bitOrder  : BitOrder
  deriving DecidableEq, Repr

/-- The default configuration `cfg0` (spec/92_eei_decisions.md section 3; the two tables are proposed by R181 and R185).
DESIGN CHOICE, unsafe (log entry 2): `cfg0` leaves `T_TIMEOUT` and `T_BYTE_GAP` open; they stand here at the least legal
values, 1 and 0. -/
def cfg0 : Cfg where
  baseline  := 2015
  shiftDc   := 2
  shiftFreq := 3
  shiftPeak := 3
  shiftRect := 3
  kV        := 825
  kF        := 11059200
  avgFMin   := 1000
  avgFMax   := 1000000
  nSettle   := 1
  dpPos     := { dc := 4, frequency := 0, zeroToPeak := 4, peakToPeak := 4, pseudoRms := 4 }
  tTimeout  := 1
  tByteGap  := 0
  setupLen  := 5
  setupSeq  := #v[⟨0x0C, 0x01⟩, ⟨0x09, 0xFF⟩, ⟨0x0B, 0x07⟩, ⟨0x0A, 0x08⟩, ⟨0x0F, 0x00⟩]
  errSeq    := #v[⟨0x01, 0x0E⟩, ⟨0x02, 0x0D⟩, ⟨0x03, 0x0B⟩, ⟨0x04, 0x0C⟩]
  bitOrder  := .msbFirst

/-- What a display register holds while the rules leave it unspecified (R43, U4, U5, U15): a free value, one for each address
and each time the contents became unspecified. Nothing constrains it (log entry 9). -/
opaque Config.unspecifiedDisplay : Nat → Nat → Byte

end Sys2Proof
end

