-- ==== Sys2Proof/Machine/State.lean ====
section
/-! DEFINITION. The state of the block as plain data: the fourteen registers S0 to S13 of spec/10_state.md R10, the display
operation in progress, the display register space of spec/20_memory.md R40 to R43, the inputs the environment has still to
present, the outputs so far, and the configuration record; and the state after reset (R25, R240). -/

namespace Sys2Proof.Machine

/-- S10 `polarity`: the side of the baseline the previous sample of a peak mode was on; BELOW is encoded 0 and ABOVE 1
(R18). -/
inductive Polarity where
  | below
  | above
  deriving DecidableEq, Repr

/-- S11 `strobe`: low (0) while a transaction is open, high (1) when idle (R19). -/
inductive Level where
  | low
  | high
  deriving DecidableEq, Repr

/-- S12 `tx_phase`, in the order of its codes 0 to 4 (R20). -/
inductive TxPhase where
  | idle
  | b1Wait
  | b1Gap
  | b2Wait
  | b2Gap
  deriving DecidableEq, Repr

/-- The link events of R44. -/
inductive LinkEvent where
  /-- `STB0`: the strobe line goes low, a transaction opens. -/
  | stb0
  /-- `BYTE(b)`: byte `b` is handed to the serial port. -/
  | byte (b : Byte)
  /-- `STB1`: the strobe line goes high, commit. -/
  | stb1
  deriving DecidableEq, Repr

/-- The result of an operation (R210, R211); `Operands.lean` packs it into a response word. -/
inductive Result where
  /-- `Ok(value, dp)`; both are 0 for every operation but RENDER (R64). -/
  | ok (value : BitVec 32) (dp : BitVec 4)
  | outOfRange
  | timeout
  | notYetValid
  | illegal
  deriving DecidableEq, Repr

/-- What the environment presents at the block's input pins, in order of arrival (R48, R60, R263; log entry 3). -/
inductive Input where
  /-- A command word is presented at the command port. -/
  | cmd (w : CmdWord)
  /-- The display driver makes one move, with the completion flag `ser_done` at this level: one poll while a byte is awaited
  (R172), one unit of the delay in a gap (R173), one link event or the return otherwise (R44; log entry 5). -/
  | tick (serDone : Bool)
  /-- `rst` is asserted (R240). -/
  | rst
  deriving DecidableEq, Repr

/-- The display registers written by a committed transaction since the contents were last unspecified: (address, byte) pairs
at strictly rising addresses 0 to 15 (R40, R41, R43). -/
abbrev Memory := List Host.Cell

/-- `DISP[0..15]`, the display register space (R40, R43): the registers written, and how often the contents have become
unspecified since power-on. A register not listed holds the free value of that draw (U4, U5; log entry 9). -/
structure DisplaySpace where
  cells : Memory
  draws : Nat
  deriving DecidableEq, Repr

/-- S0 to S10: the mode and the measurement state, which the handlers, MODE and RENDER share (R10 to R18). -/
structure Measurement where
  mode             : Mode
  average          : Acc
  minAverage       : Acc
  maxAverage       : Acc
  rectAverage      : Acc
  lastCapture      : BitVec 16
  overflowCount    : BitVec 8
  captureCount     : BitVec 8
  currentMinSample : BitVec 12
  currentMaxSample : BitVec 12
  polarity         : Polarity
  deriving DecidableEq, Repr

/-- Where a display operation stands between two of its link events (R47, R170, R171; D19: "atomic per link event"). A field of
the model: S11 to S13 alone do not tell an operation that is about to lower the strobe from none at all (log entry 21). -/
inductive Stage where
  /-- No display operation is in progress. -/
  | free
  /-- The next transaction is about to begin: its `STB0` has still to occur. -/
  | opening
  /-- The strobe is low and the address byte has still to be issued. -/
  | addressing
  /-- The address byte has been issued; `tx_phase` says the rest. -/
  | sending
  /-- The last link event has occurred and the operation has still to return this result. -/
  | returning (r : Result)
  deriving DecidableEq, Repr

/-- S11 to S13 and what a blocked display operation still has to do: where it stands, the transaction in progress, the
transactions after it, and the units of time spent in the present phase (R19, R20, R171 to R176). -/
structure Driver where
  strobe  : Level
  txPhase : TxPhase
  seqIdx  : BitVec 4
  stage   : Stage
  frame   : Frame
  queue   : List Frame
  waited  : Nat
  deriving DecidableEq, Repr

/-- The whole machine. `cfg` is the parameter of R2, carried here because a step has no other argument; no operation
writes it. `inputs` is what the environment has still to present, `link` the link trace so far (R44), `responses` the words
sent on the response port so far, and `handlerResults` the results of handler operations, which nobody waits for (R60). -/
structure State where
  cfg            : Cfg
  meas           : Measurement
  drv            : Driver
  disp           : DisplaySpace
  inputs         : List Input
  link           : List LinkEvent
  responses      : List RspWord
  handlerResults : List Result
  deriving DecidableEq, Repr

/-- The block has no fault: "There is no exception mechanism" (R210), "No condition is fatal" (R219), and nothing in it
is stuck (spec/93_implementation_defined.md section 1). No constructor is safe or unsafe, because there is none. -/
inductive Fault where
  deriving DecidableEq, Repr

/-- Why a step is refused. -/
inductive Refusal where
  /-- Raised by an arm of `exec` whose operation has no meaning yet; none has this now. Safe: the run stops. -/
  | notModelled (mnemonic : String)
  /-- Raised by `step` when the configuration is outside the legal values of R2: "a model refuses it" (U10). Safe. -/
  | illegalConfiguration
  /-- Raised by the main-loop operations (MODE, RENDER, TRANSMIT, DIGITS, ERRDISP, SETUP) presented while a display
  operation is in progress: `cmd_ready` is low, "a model `refuse`s such a script" (R217, U16). Safe. -/
  | commandNotReady
  deriving DecidableEq, Repr

/-- The measurement state at reset: mode DC, S1 to S10 all zero, so `polarity` is BELOW (R25). -/
def Measurement.atReset : Measurement where
  mode             := .dc
  average          := 0
  minAverage       := 0
  maxAverage       := 0
  rectAverage      := 0
  lastCapture      := 0
  overflowCount    := 0
  captureCount     := 0
  currentMinSample := 0
  currentMaxSample := 0
  polarity         := .below

/-- The display driver between operations: `strobe` = 1, `tx_phase` = 0, `seq_idx` = 0, nothing to send (R20, R25). -/
def Driver.idle : Driver where
  strobe  := .high
  txPhase := .idle
  seqIdx  := 0
  stage   := .free
  frame   := ⟨0, 0⟩
  queue   := []
  waited  := 0

/-- The display registers at power-on: every one holds the free value of the first draw (R43, U5; DESIGN CHOICE, log entry 9:
the draws are counted from 0). -/
def DisplaySpace.atPowerOn : DisplaySpace where
  cells := []
  draws := 0

/-- The machine right after reset (R25, R240), with the configuration `c`: the measurement state of mode DC, the driver idle,
every display register unspecified, nothing presented and nothing sent yet. -/
def State.resetWith (c : Cfg) : State where
  cfg            := c
  meas           := .atReset
  drv            := .idle
  disp           := .atPowerOn
  inputs         := []
  link           := []
  responses      := []
  handlerResults := []

/-- The machine right after reset, with `cfg0`, "the configuration every vector and program" of the spec uses. DESIGN CHOICE,
unsafe (log entry 1): `cfg` has no reset value, and no statement of this package rests on this one but those that name it. -/
def State.reset : State := .resetWith cfg0

end Sys2Proof.Machine
end

