-- ==== Sys2Proof/Machine/Averager.lean ====
section
/-! DEFINITION. The fixed-point exponential averager (spec/40_averager.md R90), the pure function that SAMPLE and CAPTURE
apply to an average register. -/

namespace Sys2Proof.Machine

/-- The averager's formula over the naturals, exact: `(s >> k) + (a >> k) * ((1 << k) - 1)` (R90, R4). -/
def emaNat (a s k : Nat) : Nat := (s >>> k) + (a >>> k) * ((1 <<< k) - 1)

/-- `ema(a, s, k)` on 32-bit operands (R90). The narrowing loses nothing: the exact result never exceeds the larger operand
(R92). -/
def ema (a s : Acc) (k : BitVec 4) : Acc := BitVec.ofNat 32 (emaNat a.toNat s.toNat k.toNat)

end Sys2Proof.Machine
end

