-- ==== Sys2Proof/Machine/Operands.lean ====
section
/-! DEFINITION. How operands are widened, rectified and split into digits, which transactions each display operation sends,
which context an operation belongs to, and how a result is packed into a response word. -/

namespace Sys2Proof.Machine

/-- `zext_32`: an operand entering 32-bit arithmetic is zero-extended (R63). -/
def zext32 {n : Nat} (x : BitVec n) : Acc := x.setWidth 32

/-- The elapsed-cycle count of CAPTURE: the three terms zero-extended, the subtraction and the addition modulo 2^32
(R104, R105). -/
def elapsed (c lastCapture : BitVec 16) (overflowCount : BitVec 8) : Acc :=
  zext32 c - zext32 lastCapture + (zext32 overflowCount <<< 16)

/-- The rectified magnitude `|s - B|` (R128). -/
def rectified (baseline s : BitVec 12) : BitVec 12 :=
  if baseline ≤ s then s - baseline else baseline - s

/-- The frame word of a transaction: the address byte in bits [15:8], the value byte in bits [7:0] (R72). -/
def frameWord (f : Frame) : BitVec 16 := f.addr ++ f.value

/-- Decimal digit `j + 1` of a value, the digit of weight `10^j` (R177). -/
def decimalDigit (value : BitVec 32) (j : Nat) : Nat := value.toNat / 10 ^ j % 10

/-- The value byte of a digit: the digit in BCD, bit 7 set when the digit carries the decimal point (R70, R178). -/
def digitByte (digit : Nat) (point : Bool) : Byte :=
  if point then BitVec.ofNat 8 digit ||| 0x80 else BitVec.ofNat 8 digit

/-- Transaction `j + 1` of DIGITS: address `j + 1`, with the point where the position equals `dp` (R71, R176, R178). -/
def digitFrame (value : BitVec 32) (dp : BitVec 4) (j : Nat) : Frame where
  addr  := BitVec.ofNat 8 (j + 1)
  value := digitByte (decimalDigit value j) (j + 1 == dp.toNat)

/-- The eight transactions of DIGITS, least-significant digit first (R45, R176). -/
def digitFrames (value : BitVec 32) (dp : BitVec 4) : List Frame :=
  (List.range 8).map (digitFrame value dp)

/-- The four transactions of ERRDISP, in table order (R180). -/
def errorFrames (c : Cfg) : List Frame := c.errSeq.toList

/-- The first `SETUP_LEN` entries of `SETUP_SEQ`, in table order (R184). -/
def setupFrames (c : Cfg) : List Frame := c.setupSeq.toList.take c.setupLen.toNat

/-- The display register an address byte selects: its low 4 bits are significant (R40, R46). -/
def displayAddress (a : Byte) : Nat := (a.extractLsb' 0 4).toNat

/-- `DP_POS[m]` (R154). -/
def decimalPointOf (c : Cfg) : Mode → BitVec 4
  | .dc => c.dpPos.dc
  | .frequency => c.dpPos.frequency
  | .zeroToPeak => c.dpPos.zeroToPeak
  | .peakToPeak => c.dpPos.peakToPeak
  | .pseudoRms => c.dpPos.pseudoRms

/-- The result codes of R65. -/
def resultCode : Result → BitVec 4
  | .ok _ _ => 0x0
  | .outOfRange => 0x1
  | .timeout => 0x2
  | .notYetValid => 0x3
  | .illegal => 0x4

/-- `Ok` of an operation that returns no value: both fields are 0 (R64). -/
def okDone : Result := .ok 0 0

/-- The response word of a result: `code` [39:36], `dp` [35:32], `value` [31:0]; `dp` and `value` are 0 but in an Ok result
(R64, R65). -/
def responseWord : Result → RspWord
  | .ok value dp => resultCode (.ok value dp) ++ dp ++ value
  | r => resultCode r ++ (0 : BitVec 4) ++ (0 : BitVec 32)

/-- The three contexts, told apart only by which operations belong to them (R216). -/
inductive Context where
  | adcHandler
  | timerHandler
  | mainLoop
  deriving DecidableEq, Repr

/-- The context an operation belongs to (R62, R216). -/
def contextOf : Instr → Context
  | .sample _ => .adcHandler
  | .overflow => .timerHandler
  | .capture _ => .timerHandler
  | .mode _ => .mainLoop
  | .render => .mainLoop
  | .transmit _ _ => .mainLoop
  | .digits _ _ => .mainLoop
  | .errdisp => .mainLoop
  | .setup => .mainLoop

/-- The codes of S0, S10, S11 and S12 as the register table of R10 gives their widths; S0's is `modeCode` of R68. -/
def polarityBit : Polarity → BitVec 1
  | .below => 0
  | .above => 1

/-- The `stb` pin, equal to S11 (R19, R60). -/
def strobeBit : Level → BitVec 1
  | .low => 0
  | .high => 1

/-- The code of S12 (R20). -/
def phaseCode : TxPhase → BitVec 3
  | .idle => 0
  | .b1Wait => 1
  | .b1Gap => 2
  | .b2Wait => 3
  | .b2Gap => 4

end Sys2Proof.Machine
end

