-- ==== Sys2Proof/Machine/Flags.lean ====
section
/-! DEFINITION. The conditions the rules test: the side of the baseline and its crossings, the checks of RENDER, whether the
command port is ready, and whether a configuration is legal. -/

namespace Sys2Proof.Machine

/-- The side of the baseline a sample is on; a sample equal to the baseline is ABOVE (R123, R127). -/
def sideOf (baseline s : BitVec 12) : Polarity := if baseline ≤ s then .above else .below

/-- A rising crossing: the sample is at or above the baseline and the previous state was BELOW (R124). -/
def risingCrossing (baseline s : BitVec 12) (p : Polarity) : Bool :=
  sideOf baseline s == .above && p == .below

/-- A falling crossing: the sample is below the baseline and the previous state was ABOVE (R125). -/
def fallingCrossing (baseline s : BitVec 12) (p : Polarity) : Bool :=
  sideOf baseline s == .below && p == .above

/-- The not-yet-valid check of RENDER in mode FREQUENCY: `capture_count <= N_SETTLE` (R152). -/
def notYetValid (c : Cfg) (captureCount : BitVec 8) : Bool := captureCount ≤ c.nSettle

/-- The band check of RENDER in mode FREQUENCY, on the period average, both ends inside (R153). -/
def outOfBand (c : Cfg) (average : Acc) : Bool := average < c.avgFMin || c.avgFMax < average

/-- `cmd_ready`: low for main-loop operations while a display operation is in progress (R60, R217). -/
def cmdReady (i : Instr) (s : State) : Bool :=
  contextOf i != .mainLoop || s.drv.stage == .free

/-- The legal values of the configuration record (R2): only the fields whose width admits an illegal value are tested. -/
def cfgLegal (c : Cfg) : Bool :=
  decide (1 ≤ c.avgFMin.toNat) && decide (c.avgFMin.toNat ≤ c.avgFMax.toNat)
    && decide (c.nSettle.toNat ≤ 254)
    && c.dpPos.dc == 4
    && decide (c.dpPos.frequency.toNat ≤ 8) && decide (c.dpPos.zeroToPeak.toNat ≤ 8)
    && decide (c.dpPos.peakToPeak.toNat ≤ 8) && decide (c.dpPos.pseudoRms.toNat ≤ 8)
    && decide (1 ≤ c.tTimeout)
    && (c.setupLen == 4 || c.setupLen == 5)

end Sys2Proof.Machine
end

