-- ==== Sys2Proof/Machine/Ops.lean ====
section
/-! DEFINITION. The named operations over the state: the display register space, the outputs, how an operation returns its
result (the block's only exception-like event, R210), the display driver's transaction, and reset. -/

namespace Sys2Proof.Machine

/-! The display register space (R40 to R43). -/

/-- The value a committed transaction left in a display register; none when there was none since the contents were last
unspecified (R43). -/
def Memory.read : Memory → Nat → Option Byte
  | [], _ => none
  | (b, v) :: m, a => if b = a then some v else Memory.read m a

/-- Write one display register, keeping the addresses strictly rising (R41, R43). -/
def Memory.write : Memory → Nat → Byte → Memory
  | [], a, v => [(a, v)]
  | (b, u) :: m, a, v =>
    if a < b then (a, v) :: (b, u) :: m
    else if a = b then (a, v) :: m
    else (b, u) :: Memory.write m a v

/-- The canonical form: strictly rising addresses, all below 16 (R40). -/
def Memory.wf (m : Memory) : Bool :=
  decide (m.Pairwise fun x y => x.1 < y.1) && m.all fun x => decide (x.1 < 16)

/-- The value of `DISP[a]`, `a` from 0 to 15: what was written to it, and the free value while it is unspecified (R43). -/
def DisplaySpace.read (d : DisplaySpace) (a : Nat) : Byte :=
  (d.cells.read a).getD (Config.unspecifiedDisplay d.draws a)

/-- `DISP[a] <- v` (R41, R43). -/
def DisplaySpace.write (d : DisplaySpace) (a : Nat) (v : Byte) : DisplaySpace := { d with cells := d.cells.write a v }

/-- Every display register becomes unspecified: after a failed or an abandoned transaction (R43, R174, U4, U15). -/
def DisplaySpace.lose (d : DisplaySpace) : DisplaySpace where
  cells := []
  draws := d.draws + 1

/-- The canonical form of the display register space. -/
def DisplaySpace.wf (d : DisplaySpace) : Bool := d.cells.wf

/-- With decode mode enabled, the digit shown at position `i`, 1 to 8: `DISP[i][3:0]` (R42, R43). -/
def DisplaySpace.digitShown (d : DisplaySpace) (i : Nat) : BitVec 4 := (d.read i).extractLsb' 0 4

/-- With decode mode enabled, the decimal point at position `i`, 1 to 8: `DISP[i][7]` (R42, R43). -/
def DisplaySpace.pointShown (d : DisplaySpace) (i : Nat) : Bool := (d.read i).getLsbD 7

/-! Outputs and results. -/

/-- Replace S0 to S10. -/
def State.setMeas (s : State) (m : Measurement) : State := { s with meas := m }

/-- Replace S11 to S13 and the operation in progress. -/
def State.setDriver (s : State) (d : Driver) : State := { s with drv := d }

/-- `emit`: append link events to the link trace (R44). -/
def State.emit (s : State) (es : List LinkEvent) : State := { s with link := s.link ++ es }

/-- A main-loop operation, or an illegal command word, returns its result on the response port. This is the block's whole
"exception" mechanism: `return Error(kind)` saves nothing and transfers control nowhere (R64, R210, R218). -/
def State.respond (s : State) (r : Result) : State := { s with responses := s.responses ++ [responseWord r] }

/-- A handler operation returns; nobody waits for its result, so it does not go to the response port (R60, R263; log
entry 12). -/
def State.handlerDone (s : State) : State := { s with handlerResults := s.handlerResults ++ [okDone] }

/-- Run a main-loop operation when the command port is ready for it; while a display operation is in progress it is not
accepted (R217, U16; log entry 7). -/
def whenReady (s : State) (s' : State) : Host.Outcome State Fault Refusal :=
  if s.drv.stage = .free then .next s' else .refused .commandNotReady

/-! The display driver (R170 to R179). -/

/-- The next transaction is to begin, with `seq_idx` already at its number (R171, R176); nothing has happened on the link yet, so
a `rst` or a handler operation may still come before its `STB0` (R47, R48, R263; log entry 23). -/
def prepareTransaction (f : Frame) (later : List Frame) (idx : BitVec 4) (s : State) : State :=
  s.setDriver { strobe := .high, txPhase := .idle, seqIdx := idx, stage := .opening, frame := f, queue := later, waited := 0 }

/-- `strobe <- 0; emit STB0` (R171). -/
def lowerStrobe (s : State) : State :=
  (s.emit [.stb0]).setDriver { s.drv with strobe := .low, stage := .addressing }

/-- `tx_phase <- B1_WAIT; emit BYTE(a)`: the address byte is issued and its wait begins (R171). -/
def sendAddressByte (s : State) : State :=
  (s.emit [.byte s.drv.frame.addr]).setDriver { s.drv with txPhase := .b1Wait, stage := .sending, waited := 0 }

/-- The last link event has occurred: the strobe is high, the sequencer registers are back at 0, and the operation is about to
return (R49, R175; log entry 23). -/
def leaveLink (r : Result) (s : State) : State := s.setDriver { Driver.idle with stage := .returning r }

/-- The display operation returns (R49, R170). -/
def finishDisplay (r : Result) (s : State) : State := (s.setDriver .idle).respond r

/-- `MemWrite(a, 1, v)`: a committed transaction writes one display register (R41, R43). -/
def memWrite (f : Frame) (s : State) : State :=
  { s with disp := s.disp.write (displayAddress f.addr) f.value }

/-- `strobe <- 1; emit STB1; tx_phase <- IDLE`: the transaction is committed; the operation's next transaction is to begin, or
the operation is to return Ok (R171, R176, R180, R184). -/
def commitTransaction (s : State) : State :=
  match s.drv.queue with
  | [] => leaveLink okDone (memWrite s.drv.frame (s.emit [.stb1]))
  | f :: later => prepareTransaction f later (s.drv.seqIdx + 1) (memWrite s.drv.frame (s.emit [.stb1]))

/-- A wait ended with `never`: the strobe is raised, the operation is to return Error(Timeout), and what the display registers
hold is unspecified (R174, R179, U4; log entry 9). -/
def failTransaction (s : State) : State :=
  leaveLink .timeout { s.emit [.stb1] with disp := s.disp.lose }

/-- The value byte is issued and its wait begins (R171). -/
def sendValueByte (s : State) : State :=
  (s.emit [.byte s.drv.frame.value]).setDriver { s.drv with txPhase := .b2Wait, waited := 0 }

/-- The delay after the address byte: the value byte follows when `T_BYTE_GAP` units have passed (R173). -/
def leaveFirstGap (s : State) : State := if s.drv.waited < s.cfg.tByteGap then s else sendValueByte s

/-- The delay after the value byte: the strobe is raised when `T_BYTE_GAP` units have passed (R173). -/
def leaveSecondGap (s : State) : State := if s.drv.waited < s.cfg.tByteGap then s else commitTransaction s

/-- The address byte is confirmed sent (R171, R172); with no delay configured its phase takes no time (log entry 22). -/
def firstByteDone (s : State) : State := leaveFirstGap (s.setDriver { s.drv with txPhase := .b1Gap, waited := 0 })

/-- The value byte is confirmed sent (R171, R172); with no delay configured its phase takes no time (log entry 22). -/
def secondByteDone (s : State) : State := leaveSecondGap (s.setDriver { s.drv with txPhase := .b2Gap, waited := 0 })

/-- One more unit of time has passed in this phase. -/
def countTick (s : State) : State := s.setDriver { s.drv with waited := s.drv.waited + 1 }

/-- A poll that finds the flag not asserted: the wait goes on, or ends with `never` at the `T_TIMEOUT`-th poll (R172). -/
def pollUnanswered (s : State) : State :=
  if s.drv.waited + 1 < s.cfg.tTimeout then countTick s else failTransaction s

/-- One poll or one unit of the delay within a transaction (R171 to R174). -/
def transactionTick (serDone : Bool) (s : State) : State :=
  match s.drv.txPhase with
  | .idle => s
  | .b1Wait => if serDone then firstByteDone s else pollUnanswered s
  | .b1Gap => leaveFirstGap (countTick s)
  | .b2Wait => if serDone then secondByteDone s else pollUnanswered s
  | .b2Gap => leaveSecondGap (countTick s)

/-- One move of the display driver with the completion flag at the given level: at most one link event, or the return (R44,
R47, R171 to R174; log entries 5, 14 and 23). With no display operation in progress nothing happens. -/
def driverTick (serDone : Bool) (s : State) : State :=
  match s.drv.stage with
  | .free => s
  | .opening => lowerStrobe s
  | .addressing => sendAddressByte s
  | .sending => transactionTick serDone s
  | .returning r => finishDisplay r s

/-- Let a display operation run on through the ticks presented next, until it returns or something other than a tick is
presented; what it did not use stays to be presented (R48: the operation may be run as one step; log entry 6). -/
def driveDisplay : List Input → State → State
  | .tick d :: rest, s =>
    if s.drv.stage = .free then { s with inputs := .tick d :: rest }
    else driveDisplay rest (driverTick d s)
  | ins, s => { s with inputs := ins }

/-- Start the transactions of DIGITS, ERRDISP or SETUP, numbered from 1 in `seq_idx`, and let them run (R175, R176). -/
def startSequence (frames : List Frame) (s : State) : State :=
  match frames with
  | [] => s.respond okDone
  | f :: later => driveDisplay s.inputs (prepareTransaction f later 1 s)

/-- Start the one transaction of TRANSMIT, which leaves `seq_idx` at 0, and let it run (R171, R175). -/
def startTransmit (f : Frame) (s : State) : State := driveDisplay s.inputs (prepareTransaction f [] 0 s)

/-! Reset. -/

/-- `rst`: every register takes its reset value; a display operation in progress is abandoned without a response wherever it
stands, its remaining link events do not occur, the strobe line goes high, and the display controller may have latched a partial
frame (R25, R240, R263, U15; log entry 10). -/
def applyReset (s : State) : State :=
  { s with
    meas := .atReset
    drv := .idle
    link := if s.drv.strobe = .low then s.link ++ [.stb1] else s.link
    disp := if s.drv.stage = .free then s.disp else s.disp.lose }

end Sys2Proof.Machine
end

