-- ==== Sys2Proof/Machine/Capture.lean ====
section
/-! DEFINITION. OVERFLOW and CAPTURE: the capture / frequency tracker (spec/41_capture.md R100 to R110). -/

namespace Sys2Proof.Machine

/-- OVERFLOW on the measurement state: an 8-bit counter that wraps, in mode FREQUENCY only (R100 to R102). -/
def overflowStep (m : Measurement) : Measurement :=
  if m.mode = .frequency then { m with overflowCount := m.overflowCount + 1 } else m

/-- `min(capture_count + 1, 255)`: the count of captures saturates (R107). -/
def countCapture (n : BitVec 8) : BitVec 8 := if n = 255 then 255 else n + 1

/-- CAPTURE `c` on the measurement state, in mode FREQUENCY only; every right-hand side reads the state from before the
transition (R100, R104). -/
def captureStep (cfg : Cfg) (c : BitVec 16) (m : Measurement) : Measurement :=
  if m.mode = .frequency then
    { m with
      average := ema m.average (elapsed c m.lastCapture m.overflowCount) cfg.shiftFreq
      lastCapture := c
      overflowCount := 0
      captureCount := countCapture m.captureCount }
  else m

/-- OVERFLOW (R101): accepted at any time, always Ok (R214). -/
def execOverflow (s : State) : Host.Outcome State Fault Refusal :=
  .next (s.setMeas (overflowStep s.meas)).handlerDone

/-- CAPTURE `c` (R104): accepted at any time, always Ok (R214). -/
def execCapture (c : BitVec 16) (s : State) : Host.Outcome State Fault Refusal :=
  .next (s.setMeas (captureStep s.cfg c s.meas)).handlerDone

end Sys2Proof.Machine
end

