-- ==== Sys2Proof/Machine/Display.lean ====
section
/-! DEFINITION. TRANSMIT, DIGITS, ERRDISP and SETUP: the display protocol driver (spec/44_display.md R170 to R187). Each runs
through the ticks of the completion flag that are presented next; if something else is presented first, the operation stays
in progress and later steps go on with it. -/

namespace Sys2Proof.Machine

/-- TRANSMIT `a`, `v`: one transaction, every byte legal and sent as given (R67, R171). -/
def execTransmit (a v : Byte) (s : State) : Host.Outcome State Fault Refusal :=
  whenReady s (startTransmit ⟨a, v⟩ s)

/-- DIGITS `value`, `dp`: eight transactions; a reserved position is an illegal command, answered first (R67, R176, R215). -/
def execDigits (value : BitVec 32) (dp : BitVec 4) (s : State) : Host.Outcome State Fault Refusal :=
  if legalPosition dp then whenReady s (startSequence (digitFrames value dp) s)
  else .next (s.respond .illegal)

/-- ERRDISP: the four transactions of `ERR_SEQ` (R180). -/
def execErrdisp (s : State) : Host.Outcome State Fault Refusal :=
  whenReady s (startSequence (errorFrames s.cfg) s)

/-- SETUP: the `SETUP_LEN` transactions of `SETUP_SEQ` (R184). -/
def execSetup (s : State) : Host.Outcome State Fault Refusal :=
  whenReady s (startSequence (setupFrames s.cfg) s)

end Sys2Proof.Machine
end

