-- ==== Sys2Proof/Machine/ModeController.lean ====
section
/-! DEFINITION. MODE and RENDER: mode-entry, the five display formulas and their checks (spec/43_mode_controller.md R140 to
R156). Every product and quotient is computed exactly over the naturals and then narrowed to the 32 bits of the response's
value (R151). -/

namespace Sys2Proof.Machine

/-- Mode-entry: the mode is stored and S1 to S10 are zeroed, whatever the mode was (R140, R141). -/
def enterMode (mode : Mode) : Measurement where
  mode             := mode
  average          := 0
  minAverage       := 0
  maxAverage       := 0
  rectAverage      := 0
  lastCapture      := 0
  overflowCount    := 0
  captureCount     := 0
  currentMinSample := 0
  currentMaxSample := 0
  polarity         := .below

/-- MODE `m` (R140): answered Ok; the display driver is not touched (R142). -/
def execMode (m : Mode) (s : State) : Host.Outcome State Fault Refusal :=
  whenReady s ((s.setMeas (enterMode m)).respond okDone)

/-- RENDER in mode DC: `(average * K_V) >> 10`, the point fixed at digit 4 (R146). -/
def renderDc (c : Cfg) (m : Measurement) : Result :=
  .ok (BitVec.ofNat 32 ((m.average.toNat * c.kV.toNat) >>> 10)) 4

/-- RENDER in mode FREQUENCY: not yet valid, then out of range, then `K_F / average` (R147, R152, R153, R215). -/
def renderFrequency (c : Cfg) (m : Measurement) : Result :=
  if notYetValid c m.captureCount then .notYetValid
  else if outOfBand c m.average then .outOfRange
  else .ok (BitVec.ofNat 32 (c.kF.toNat / m.average.toNat)) (decimalPointOf c .frequency)

/-- RENDER in mode ZERO_TO_PEAK: `(2 * (max_average - BASELINE) * K_V) >> 10` (R148). -/
def renderZeroToPeak (c : Cfg) (m : Measurement) : Result :=
  if m.maxAverage.toNat < c.baseline.toNat then .outOfRange
  else .ok (BitVec.ofNat 32 ((2 * (m.maxAverage.toNat - c.baseline.toNat) * c.kV.toNat) >>> 10))
    (decimalPointOf c .zeroToPeak)

/-- RENDER in mode PEAK_TO_PEAK: `((max_average - min_average) * K_V) >> 9` (R149). -/
def renderPeakToPeak (c : Cfg) (m : Measurement) : Result :=
  if m.maxAverage.toNat < m.minAverage.toNat then .outOfRange
  else .ok (BitVec.ofNat 32 (((m.maxAverage.toNat - m.minAverage.toNat) * c.kV.toNat) >>> 9))
    (decimalPointOf c .peakToPeak)

/-- RENDER in mode PSEUDO_RMS: `(2 * rect_average * K_V) >> 10` (R150). -/
def renderPseudoRms (c : Cfg) (m : Measurement) : Result :=
  .ok (BitVec.ofNat 32 ((2 * m.rectAverage.toNat * c.kV.toNat) >>> 10)) (decimalPointOf c .pseudoRms)

/-- The result of RENDER from one snapshot of the measurement state (R145). -/
def renderResult (c : Cfg) (m : Measurement) : Result :=
  match m.mode with
  | .dc => renderDc c m
  | .frequency => renderFrequency c m
  | .zeroToPeak => renderZeroToPeak c m
  | .peakToPeak => renderPeakToPeak c m
  | .pseudoRms => renderPseudoRms c m

/-- RENDER (R145): writes no register; the result goes to the response port (R155). -/
def execRender (s : State) : Host.Outcome State Fault Refusal :=
  whenReady s (s.respond (renderResult s.cfg s.meas))

end Sys2Proof.Machine
end

