-- ==== Sys2Proof/Machine/Sampling.lean ====
section
/-! DEFINITION. SAMPLE: the DC path, the peak tracker and the pseudo-RMS path (spec/42_sample_peak.md R120 to R132). -/

namespace Sys2Proof.Machine

/-- The DC path (R121). -/
def dcStep (c : Cfg) (x : BitVec 12) (m : Measurement) : Measurement :=
  { m with average := ema m.average (zext32 x) c.shiftDc }

/-- Fold the held minimum into its average and restart it from the baseline (R124). -/
def foldMinimum (c : Cfg) (m : Measurement) : Measurement :=
  { m with
    minAverage := ema m.minAverage (zext32 m.currentMinSample) c.shiftPeak
    currentMinSample := c.baseline }

/-- Fold the held maximum into its average and restart it from the baseline (R125). -/
def foldMaximum (c : Cfg) (m : Measurement) : Measurement :=
  { m with
    maxAverage := ema m.maxAverage (zext32 m.currentMaxSample) c.shiftPeak
    currentMaxSample := c.baseline }

/-- The highest sample of the half-cycle, a strict comparison (R126). -/
def raiseMaximum (x : BitVec 12) (m : Measurement) : Measurement :=
  if m.currentMaxSample < x then { m with currentMaxSample := x } else m

/-- The lowest sample of the half-cycle, a strict comparison (R126). -/
def lowerMinimum (x : BitVec 12) (m : Measurement) : Measurement :=
  if x < m.currentMinSample then { m with currentMinSample := x } else m

/-- `peak_step`: fold at a crossing, then the extremum, then the state (R123). -/
def peakStep (c : Cfg) (x : BitVec 12) (m : Measurement) : Measurement :=
  if c.baseline ≤ x then
    { raiseMaximum x (if risingCrossing c.baseline x m.polarity then foldMinimum c m else m) with polarity := .above }
  else
    { lowerMinimum x (if fallingCrossing c.baseline x m.polarity then foldMaximum c m else m) with polarity := .below }

/-- The pseudo-RMS path: rectify, then smooth (R128). -/
def rectStep (c : Cfg) (x : BitVec 12) (m : Measurement) : Measurement :=
  { m with rectAverage := ema m.rectAverage (zext32 (rectified c.baseline x)) c.shiftRect }

/-- What SAMPLE does to the measurement state, one path per mode (R120, R122). -/
def sampleStep (c : Cfg) (x : BitVec 12) (m : Measurement) : Measurement :=
  match m.mode with
  | .dc => dcStep c x m
  | .frequency => m
  | .zeroToPeak => peakStep c x m
  | .peakToPeak => peakStep c x m
  | .pseudoRms => rectStep c x m

/-- SAMPLE `x` (R120): accepted at any time, always Ok (R214). -/
def execSample (x : BitVec 12) (s : State) : Host.Outcome State Fault Refusal :=
  .next (s.setMeas (sampleStep s.cfg x s.meas)).handlerDone

end Sys2Proof.Machine
end

