-- ==== Sys2Proof/Machine/Dispatch.lean ====
section
/-! DEFINITION. One arm per operation of spec/opcode_table.json, each a call of its meaning. -/

namespace Sys2Proof.Machine

def exec (i : Instr) (s : State) : Host.Outcome State Fault Refusal :=
  match i with
  | .sample x => Sys2Proof.Machine.execSample x s
  | .overflow => Sys2Proof.Machine.execOverflow s
  | .capture c => Sys2Proof.Machine.execCapture c s
  | .mode m => Sys2Proof.Machine.execMode m s
  | .render => Sys2Proof.Machine.execRender s
  | .transmit a v => Sys2Proof.Machine.execTransmit a v s
  | .digits value dp => Sys2Proof.Machine.execDigits value dp s
  | .errdisp => Sys2Proof.Machine.execErrdisp s
  | .setup => Sys2Proof.Machine.execSetup s

end Sys2Proof.Machine
end

