-- ==== Sys2Proof/Machine/Port.lean ====
section
/-! DEFINITION. The command port and the other inputs: what one step does with the input presented next
(spec/20_memory.md R48, spec/30_encoding.md R60 and R67, spec/70_reset_and_hazards.md R240 and R263). -/

namespace Sys2Proof.Machine

/-- One command word is presented: an illegal word is answered ILLEGAL and changes nothing else, whatever context it came
from (R67; log entry 20); a legal one is one operation (R60). -/
def acceptCommand (w : CmdWord) (s : State) : Host.Outcome State Fault Refusal :=
  match decode w with
  | .legal i => exec i s
  | .illegal _ => .next (s.respond .illegal)

/-- One input, taken from the environment. -/
def acceptInput (x : Input) (s : State) : Host.Outcome State Fault Refusal :=
  match x with
  | .cmd w => acceptCommand w s
  | .tick serDone => .next (driverTick serDone s)
  | .rst => .next (applyReset s)

/-- One step: the input presented next is taken; with nothing presented the block waits (R241; log entry 4). A configuration
outside the legal values is refused (R2, U10). -/
def stepInputs (s : State) : Host.Outcome State Fault Refusal :=
  if cfgLegal s.cfg then
    match s.inputs with
    | [] => .next s
    | x :: rest => acceptInput x { s with inputs := rest }
  else .refused .illegalConfiguration

/-- Present a command word before everything else that is still to be presented. -/
def presentCommand (w : CmdWord) (s : State) : State := { s with inputs := .cmd w :: s.inputs }

end Sys2Proof.Machine
end

