-- ==== Sys2Proof/Machine/Step.lean ====
section
/-! DEFINITION. The step of the machine, and how a row of the opcode table is placed where the next step takes its operation
(spec/10_state.md R21: there is no fetch; the operation is the command word presented next at the command port). -/

namespace Sys2Proof.Machine

/-- One step of the block. -/
def step (s : State) : Host.Outcome State Fault Refusal := stepInputs s

/-- The state with the opcode-table word `w` presented next at the command port; a command word is 40 bits (R61). -/
def State.withFetchWord (s : State) (nbits w : Nat) : State := presentCommand (BitVec.ofNat 40 (w % 2 ^ nbits)) s

end Sys2Proof.Machine
end

