-- ==== Sys2Proof/Machine/Script.lean ====
section
/-! DEFINITION. The event script as inputs: the answers of the environment to the completion-flag waits, and the operations
and pseudo-operations of a script (spec/30_encoding.md R75 and R76, spec/44_display.md R172). Its text form is not modelled. -/

namespace Sys2Proof.Machine

/-- The environment's answer to one completion-flag wait (R44, R172): the flag is seen asserted after `late` polls that did
not see it, or never within the bound. -/
inductive Answer where
  | done (late : Nat)
  | never
  deriving DecidableEq, Repr

/-- An answer that R172 admits under a configuration: a `done` is seen within `T_TIMEOUT` polls. -/
def Answer.inBound (c : Cfg) : Answer → Bool
  | .done late => decide (late < c.tTimeout)
  | .never => true

/-- The ticks that carry an answer, the delay after a completed byte included; the flag stays asserted until the next byte
is issued (R172, R173). -/
def answerInputs (c : Cfg) : Answer → List Input
  | .done late => List.replicate late (.tick false) ++ .tick true :: List.replicate c.tByteGap (.tick true)
  | .never => List.replicate c.tTimeout (.tick false)

/-- The moves that open a transaction: `STB0`, then the address byte (R171). The level of the flag is not looked at. -/
def openingInputs : List Input := [.tick false, .tick false]

/-- The moves of a display operation's transactions, two answers to each (R170, R171). -/
def transactionInputs (c : Cfg) : List Answer → List Input
  | [] => []
  | [a] => openingInputs ++ answerInputs c a
  | a :: b :: as => openingInputs ++ answerInputs c a ++ answerInputs c b ++ transactionInputs c as

/-- The moves of a whole display operation: its transactions, then its return (R170). -/
def operationInputs (c : Cfg) (answers : List Answer) : List Input := transactionInputs c answers ++ [.tick false]

/-- How many waits an operation has when every answer is `done`: two for each transaction (R170). -/
def waitsOf (c : Cfg) : Instr → Nat
  | .transmit _ _ => 2
  | .digits _ _ => 16
  | .errdisp => 8
  | .setup => 2 * c.setupLen.toNat
  | _ => 0

/-- The answers of a script line over `n` waits: those given, up to the first `never`; an omitted answer is `done` (R75). -/
def scriptAnswers : Nat → List Answer → List Answer
  | 0, _ => []
  | n + 1, [] => .done 0 :: scriptAnswers n []
  | n + 1, .done late :: as => .done late :: scriptAnswers n as
  | _ + 1, .never :: _ => [.never]

/-- One script line: the operation's command word, then the moves of a display operation with its answers (R75). -/
def scriptLine (c : Cfg) (i : Instr) (answers : List Answer) : List Input :=
  .cmd (encode i) :: if waitsOf c i = 0 then [] else operationInputs c (scriptAnswers (waitsOf c i) answers)

/-- The pseudo-operation SAMPLES (R76). -/
def scriptSamples (c : Cfg) (xs : List (BitVec 12)) : List Input := xs.flatMap fun x => scriptLine c (.sample x) []

/-- The pseudo-operation REPEAT (R76). -/
def scriptRepeat (n : Nat) (lines : List Input) : List Input := (List.replicate n lines).flatten

/-- The pseudo-operation RESET: not an operation (R76, R240). -/
def scriptReset : List Input := [.rst]

/-- What the main loop does with the result of RENDER: an Ok is shown by DIGITS, any error by ERRDISP (R76, R155). -/
def refreshOperation : Result → Instr
  | .ok value dp => .digits value dp
  | _ => .errdisp

/-- The pseudo-operation REFRESH in a measurement state: RENDER, then what its result calls for (R76). -/
def scriptRefresh (c : Cfg) (m : Measurement) (answers : List Answer) : List Input :=
  scriptLine c .render [] ++ scriptLine c (refreshOperation (renderResult c m)) answers

end Sys2Proof.Machine
end

