-- ==== Sys2Proof/Safety.lean ====
section
/-! DEFINITION. The terms in which statements are made: the bounds of spec/10_state.md R24, a consistent display driver, a
well-framed link trace, the blocking procedure of spec/44_display.md R171 to R179, and the word an environment must not
present. -/

namespace Sys2Proof.Machine

/-! What every reachable state satisfies. -/

/-- R24 (a) to (d): the bounds of the measurement state. -/
abbrev measBounds (c : Cfg) (m : Measurement) : Prop :=
  m.minAverage.toNat ≤ 4095 ∧ m.maxAverage.toNat ≤ 4095 ∧ m.rectAverage.toNat ≤ 4095 ∧
  (m.mode = .dc → m.average.toNat ≤ 4095) ∧
  m.currentMinSample.toNat ≤ c.baseline.toNat ∧
  (m.currentMaxSample = 0 ∨ c.baseline.toNat ≤ m.currentMaxSample.toNat)

/-- The transactions still to send are numbered up to at most 8, and TRANSMIT (`seq_idx` 0) has one only (R20, R175). -/
abbrev sequenceInRange (d : Driver) : Prop :=
  d.seqIdx.toNat + d.queue.length ≤ 8 ∧ (d.seqIdx = 0 → d.queue = [])

/-- Between operations the driver is at its idle values. During one, `strobe` and `tx_phase` are what R171 makes them where the
operation stands, the transactions still to send are within range, the wait or the delay is within its bound, and what is
returned is Ok or Error(Timeout) (R19, R20, R24 (f), R171 to R175). -/
abbrev driverConsistent (c : Cfg) (d : Driver) : Prop :=
  d = Driver.idle ∨
  d = { Driver.idle with stage := .returning okDone } ∨ d = { Driver.idle with stage := .returning .timeout } ∨
  (d.stage = .opening ∧ d.strobe = .high ∧ d.txPhase = .idle ∧ sequenceInRange d) ∨
  (d.stage = .addressing ∧ d.strobe = .low ∧ d.txPhase = .idle ∧ sequenceInRange d) ∨
  (d.stage = .sending ∧ d.strobe = .low ∧ d.txPhase ≠ .idle ∧ sequenceInRange d ∧
    (d.txPhase = .b1Wait ∨ d.txPhase = .b2Wait → d.waited < c.tTimeout) ∧
    (d.txPhase = .b1Gap ∨ d.txPhase = .b2Gap → d.waited < c.tByteGap))

/-- Where a link trace stands within a transaction (R44, R170). -/
inductive LinkFraming where
  | closed
  | opened
  | oneByte
  | twoBytes
  deriving DecidableEq, Repr

/-- One link event in a well-framed trace: `STB0`, then one or two bytes, then `STB1` (R44, R170, R174). A `rst` may raise the
strobe before the first byte (R240, R263). -/
def framingAfter : Option LinkFraming → LinkEvent → Option LinkFraming
  | some .closed, .stb0 => some .opened
  | some .opened, .byte _ => some .oneByte
  | some .oneByte, .byte _ => some .twoBytes
  | some .opened, .stb1 => some .closed
  | some .oneByte, .stb1 => some .closed
  | some .twoBytes, .stb1 => some .closed
  | _, _ => none

/-- The framing of a whole trace; none when it is not a sequence of transactions. -/
def linkFraming (l : List LinkEvent) : Option LinkFraming := l.foldl framingAfter (some .closed)

/-- The framing a phase of the driver within a transaction stands for (R20, R171). -/
def framingOfPhase : TxPhase → LinkFraming
  | .idle => .closed
  | .b1Wait => .oneByte
  | .b1Gap => .oneByte
  | .b2Wait => .twoBytes
  | .b2Gap => .twoBytes

/-- The framing the driver stands for (R20, R171). -/
def framingOfDriver (d : Driver) : LinkFraming :=
  match d.stage with
  | .free => .closed
  | .opening => .closed
  | .addressing => .opened
  | .sending => framingOfPhase d.txPhase
  | .returning _ => .closed

/-- The trace sent so far is a sequence of transactions, open exactly as the driver says. -/
abbrev linkWellFramed (s : State) : Prop := linkFraming s.link = some (framingOfDriver s.drv)

/-! The blocking procedure of R171 to R179, as the spec writes it, over the answers of the environment. -/

/-- The link trace of a successful transaction (R44, R171). -/
def transactionTrace (f : Frame) : List LinkEvent := [.stb0, .byte f.addr, .byte f.value, .stb1]

/-- The transactions a display operation sends; none for another operation (R171, R176, R180, R184). -/
def displayFrames (c : Cfg) : Instr → Option (List Frame)
  | .transmit a v => some [⟨a, v⟩]
  | .digits value dp => some (digitFrames value dp)
  | .errdisp => some (errorFrames c)
  | .setup => some (setupFrames c)
  | _ => none

/-- `transmit` for each frame in turn, stopping at the first that times out: the trace, the display registers and the result
(R171, R174, R176, R179). With too few answers it stops without one. -/
def blockingRun : List Frame → List Answer → DisplaySpace → List LinkEvent × DisplaySpace × Option Result
  | [], _, m => ([], m, some okDone)
  | f :: _, .never :: _, m => ([.stb0, .byte f.addr, .stb1], m.lose, some .timeout)
  | f :: _, .done _ :: .never :: _, m => (transactionTrace f, m.lose, some .timeout)
  | f :: fs, .done _ :: .done _ :: as, m =>
    let r := blockingRun fs as (m.write (displayAddress f.addr) f.value)
    (transactionTrace f ++ r.1, r.2)
  | _ :: _, _, m => ([], m, none)

/-- The response of RENDER right after mode-entry (R156). -/
def freshModeResponse (c : Cfg) : Mode → RspWord
  | .dc => 0x0400000000
  | .frequency => 0x3000000000
  | .zeroToPeak =>
    if 0 < c.baseline.toNat then 0x1000000000 else BitVec.ofNat 40 (c.dpPos.zeroToPeak.toNat * 2 ^ 32)
  | .peakToPeak => BitVec.ofNat 40 (c.dpPos.peakToPeak.toNat * 2 ^ 32)
  | .pseudoRms => BitVec.ofNat 40 (c.dpPos.pseudoRms.toNat * 2 ^ 32)

/-! Counting folds (R130). -/

/-- How many rising folds the tracker makes over a sequence of samples. -/
def risingFolds (c : Cfg) : Measurement → List (BitVec 12) → Nat
  | _, [] => 0
  | m, x :: xs => (if risingCrossing c.baseline x m.polarity then 1 else 0) + risingFolds c (sampleStep c x m) xs

/-- How many falling folds the tracker makes over a sequence of samples. -/
def fallingFolds (c : Cfg) : Measurement → List (BitVec 12) → Nat
  | _, [] => 0
  | m, x :: xs => (if fallingCrossing c.baseline x m.polarity then 1 else 0) + fallingFolds c (sampleStep c x m) xs

/-- At how many positions a sample at or above the baseline follows one below it. -/
def upwardSteps (b : BitVec 12) : List (BitVec 12) → Nat
  | x :: y :: ys => (if x.toNat < b.toNat ∧ b.toNat ≤ y.toNat then 1 else 0) + upwardSteps b (y :: ys)
  | _ => 0

/-- At how many positions a sample below the baseline follows one at or above it. -/
def downwardSteps (b : BitVec 12) : List (BitVec 12) → Nat
  | x :: y :: ys => (if b.toNat ≤ x.toNat ∧ y.toNat < b.toNat then 1 else 0) + downwardSteps b (y :: ys)
  | _ => 0

/-! Illegal command words, by the masks of R62 and R67. -/

/-- The bits of a command word that R62 marks `-` for each operation code. -/
def mustBeZeroMask : Nat → CmdWord
  | 1 => 0x0FFFFFF000
  | 2 => 0x0FFFFFFFFF
  | 3 => 0x0FFFFF0000
  | 4 => 0x0FFFFFFFF8
  | 5 => 0x0FFFFFFFFF
  | 6 => 0x0FFFFF0000
  | 7 => 0x0000000000
  | 8 => 0x0FFFFFFFFF
  | 9 => 0x0FFFFFFFFF
  | _ => 0

/-- The operation code of a command word, bits [39:36] (R61). -/
abbrev opcodeNumber (w : CmdWord) : Nat := w.toNat / 2 ^ 36

/-- A command word is illegal (R67): a reserved operation code, a must-be-zero bit that is 1, MODE with `m` 5 to 7, DIGITS
with `dp` 9 to 15. -/
abbrev illegalWord (w : CmdWord) : Prop :=
  opcodeNumber w = 0 ∨ 0xA ≤ opcodeNumber w ∨ w &&& mustBeZeroMask (opcodeNumber w) ≠ 0 ∨
  (opcodeNumber w = 4 ∧ 5 ≤ w.toNat % 8) ∨ (opcodeNumber w = 7 ∧ 9 ≤ w.toNat / 2 ^ 32 % 16)

end Sys2Proof.Machine
end

