-- ==== Sys2Proof/Certificates/Slice0/Obligations.lean ====
section
/-! DEFINITION. The statements about the block, from the numbered rules of spec/. A statement about every state holds in
states no run reaches as well, unless it names an invariant as a premise; the invariants are statements of their own. -/

open Sys2Proof Sys2Proof.Machine

/-! Encoding and the command port. -/

/-- R61 to R63, R67: decoding the command word of a well-formed instruction gives the instruction, with every operand at
every value. -/
def Obligations.DecodeOfEncode : Prop :=
  ∀ i : Instr, i.wellFormed = true → decode (encode i) = .legal i

/-- R61 to R63: a legal command word is the one command word of its instruction, which is well formed. -/
def Obligations.EncodeOfDecode : Prop :=
  ∀ (w : CmdWord) (i : Instr), decode w = .legal i → encode i = w ∧ i.wellFormed = true

/-- R67, R263, R215: exactly the words the rule names are illegal; an illegal word is answered with result code ILLEGAL, value 0
and dp 0, and changes nothing else; every other word is legal. That it is answered at once also while a display operation is in
progress is the model's reading of R67, R215 and R263 (log entry 20). -/
def Obligations.IllegalWordsAnswered : Prop :=
  ∀ (s : State) (w : CmdWord) (rest : List Input), cfgLegal s.cfg = true → s.inputs = .cmd w :: rest →
    (illegalWord w →
      step s = .next { s with inputs := rest, responses := s.responses ++ [0x4000000000] }) ∧
    (¬illegalWord w → ∃ i : Instr, decode w = .legal i ∧ i.wellFormed = true)

/-- Words written out from R62, R63, R68 and R69, one for each operation. -/
def Obligations.WrittenWordsDecode : Prop :=
  decode 0x10000007DF = .legal (.sample 2015) ∧ decode 0x2000000000 = .legal .overflow ∧
  decode 0x3000001234 = .legal (.capture 0x1234) ∧ decode 0x4000000003 = .legal (.mode .peakToPeak) ∧
  decode 0x5000000000 = .legal .render ∧ decode 0x6000000481 = .legal (.transmit 0x04 0x81) ∧
  decode 0x74000004D2 = .legal (.digits 1234 4) ∧ decode 0x8000000000 = .legal .errdisp ∧
  decode 0x9000000000 = .legal .setup

/-- R60: one accepted command word is one operation: a step runs the instruction the word at the command port decodes to, on
the state from which that word has been taken. -/
def Obligations.StepRunsDecodedInstruction : Prop :=
  ∀ (s : State) (w : CmdWord) (rest : List Input) (i : Instr), cfgLegal s.cfg = true →
    s.inputs = .cmd w :: rest → decode w = .legal i → step s = exec i { s with inputs := rest }

/-- R241, R48: with nothing presented the block waits; a tick of the driver's time is a step of its own. Both are the model's:
that a step of waiting changes nothing, in every state and during a display operation too, is log entry 4, because R241 speaks
of waiting after reset only; the tick and its unit of time are log entry 5. -/
def Obligations.StepWaitsOrTicks : Prop :=
  ∀ s : State, cfgLegal s.cfg = true →
    (s.inputs = [] → step s = .next s) ∧
    (∀ (d : Bool) (rest : List Input), s.inputs = .tick d :: rest →
      step s = .next (driverTick d { s with inputs := rest }))

/-- R2: the legal values of the table; a configuration outside them is refused, and no step changes the configuration. -/
def Obligations.ConfigurationLegalAndConstant : Prop :=
  (∀ c : Cfg, cfgLegal c = true ↔
    1 ≤ c.avgFMin.toNat ∧ c.avgFMin.toNat ≤ c.avgFMax.toNat ∧ c.nSettle.toNat ≤ 254 ∧
    (c.dpPos.dc = 4 ∧ ∀ m : Mode, (decimalPointOf c m).toNat ≤ 8) ∧ 1 ≤ c.tTimeout ∧
    (c.setupLen.toNat = 4 ∨ c.setupLen.toNat = 5)) ∧
  (∀ s : State, step s = .refused .illegalConfiguration ↔ cfgLegal s.cfg = false) ∧
  (∀ s t : State, step s = .next t → t.cfg = s.cfg)

/-- R64, R65: the three fields of the response word, for every result. -/
def Obligations.ResponseWordFields : Prop :=
  (∀ (value : BitVec 32) (dp : BitVec 4),
    (responseWord (.ok value dp)).toNat = dp.toNat * 2 ^ 32 + value.toNat) ∧
  responseWord .outOfRange = 0x1000000000 ∧ responseWord .timeout = 0x2000000000 ∧
  responseWord .notYetValid = 0x3000000000 ∧ responseWord .illegal = 0x4000000000

/-- Decision D3 and R76: an Ok response of RENDER becomes the DIGITS command for the same value by setting the top digit to
7, and any error calls for ERRDISP. -/
def Obligations.RefreshCommandFromResponse : Prop :=
  (∀ (value : BitVec 32) (dp : BitVec 4),
    encode (refreshOperation (.ok value dp)) = responseWord (.ok value dp) ||| 0x7000000000) ∧
  (∀ r : Result, (∀ value dp, r ≠ .ok value dp) → refreshOperation r = .errdisp)

/-! The averager. -/

/-- R90, R92: the averager's formula exactly, with no wrap anywhere; the result never exceeds the larger operand. -/
def Obligations.EmaExactAndBounded : Prop :=
  ∀ (a s : Acc) (k : BitVec 4),
    (ema a s k).toNat = s.toNat / 2 ^ k.toNat + a.toNat / 2 ^ k.toNat * (2 ^ k.toNat - 1) ∧
    a.toNat / 2 ^ k.toNat * (2 ^ k.toNat - 1) ≤ a.toNat ∧
    (ema a s k).toNat ≤ max a.toNat s.toNat

/-- R93: the truncation law. With `a = qa * 2^k + ra` and `s = qs * 2^k + rs`, the result is `a - ra + qs - qa`; times `2^k`
it is the exact filter value less `ra * (2^k - 1) + rs`, which is at most `2^k * (2^k - 1)` and 0 exactly when both operands
are multiples of `2^k`. -/
def Obligations.EmaTruncationLaw : Prop :=
  ∀ (a s : Acc) (k : BitVec 4),
    let p := 2 ^ k.toNat
    let qa := a.toNat / p
    let ra := a.toNat % p
    let qs := s.toNat / p
    let rs := s.toNat % p
    (ema a s k).toNat + ra + qa = a.toNat + qs ∧
    p * (ema a s k).toNat + (ra * (p - 1) + rs) = (p - 1) * a.toNat + s.toNat ∧
    ra * (p - 1) + rs ≤ p * (p - 1) ∧
    (ra * (p - 1) + rs = 0 ↔ p ∣ a.toNat ∧ p ∣ s.toNat)

/-- R94: what holds for every input, what holds when both operands are multiples of `2^k`, and the rule's counterexamples to
the source's property. -/
def Obligations.EmaMonotoneBounds : Prop :=
  (∀ (a s : Acc) (k : BitVec 4),
    min a.toNat s.toNat ≤ (ema a s k).toNat + (2 ^ k.toNat - 1) ∧ (ema a s k).toNat ≤ max a.toNat s.toNat) ∧
  (∀ (a a' s s' : Acc) (k : BitVec 4), a.toNat ≤ a'.toNat → s.toNat ≤ s'.toNat →
    (ema a s k).toNat ≤ (ema a' s' k).toNat) ∧
  (∀ (a s : Acc) (k : BitVec 4), 2 ^ k.toNat ∣ a.toNat → 2 ^ k.toNat ∣ s.toNat →
    (a.toNat < s.toNat → a.toNat < (ema a s k).toNat ∧ (ema a s k).toNat ≤ s.toNat) ∧
    (s.toNat < a.toNat → s.toNat ≤ (ema a s k).toNat ∧ (ema a s k).toNat < a.toNat) ∧
    (s = a → ema a s k = a)) ∧
  ema 5 5 2 = 4 ∧ ema 5 5 3 = 0 ∧ ema 4095 4095 3 = 4088 ∧ ema 55296 55300 3 = 55296

/-- R95: under a constant input the updates from 0 rise to a fixed point within the rule's bounds; from above a multiple of
`2^k` they fall to exactly it; and the rule's numbers. -/
def Obligations.EmaSteadyState : Prop :=
  (∀ (s : Acc) (k : BitVec 4), ∃ (n : Nat) (a : Acc),
    (∀ m, n ≤ m → (fun x => ema x s k)^[m] 0 = a) ∧
    (∀ m, ((fun x => ema x s k)^[m] 0).toNat ≤ ((fun x => ema x s k)^[m + 1] 0).toNat) ∧
    a.toNat ≤ s.toNat ∧ s.toNat ≤ a.toNat + (2 ^ k.toNat - 1) * 2 ^ k.toNat) ∧
  (∀ (a s : Acc) (k : BitVec 4), 2 ^ k.toNat ∣ s.toNat → s.toNat ≤ a.toNat →
    ∃ n, ∀ m, n ≤ m → (fun x => ema x s k)^[m] a = s) ∧
  (∀ (a s : Acc) (k : BitVec 4),
    ema a s k = a ↔ s.toNat / 2 ^ k.toNat = a.toNat / 2 ^ k.toNat + a.toNat % 2 ^ k.toNat) ∧
  ((fun x => ema x 4095 3)^[37] 0 = 4039 ∧ (fun x => ema x 4095 3)^[36] 0 ≠ 4039 ∧ ema 4039 4095 3 = 4039) ∧
  (∃ n, ∀ m, n ≤ m → (fun x => ema x 2015 3)^[m] 0 = 1959) ∧
  (∃ n, ∀ m, n ≤ m → (fun x => ema x 55296 3)^[m] 0 = 55247) ∧
  ((fun x => ema x 4095 2)^[23] 0 = 4083 ∧ (fun x => ema x 4095 2)^[22] 0 ≠ 4083 ∧ ema 4083 4095 2 = 4083) ∧
  ((fun x => ema x 1000 3)^[35] 4095 = 1000 ∧ (fun x => ema x 1000 3)^[34] 4095 ≠ 1000)

/-! SAMPLE. -/

/-- R121: SAMPLE in mode DC folds the sample into `average`; nothing else changes. -/
def Obligations.SampleInDcMode : Prop :=
  (∀ (s : State) (x : BitVec 12), s.meas.mode = .dc →
    exec (.sample x) s = .next { s with
      meas := { s.meas with average := ema s.meas.average (x.setWidth 32) s.cfg.shiftDc }
      handlerResults := s.handlerResults ++ [.ok 0 0] }) ∧
  ema 1000 2000 2 = 1250

/-- R122: SAMPLE in mode FREQUENCY changes no state and returns Ok. -/
def Obligations.SampleInFrequencyMode : Prop :=
  ∀ (s : State) (x : BitVec 12), s.meas.mode = .frequency →
    exec (.sample x) s = .next { s with handlerResults := s.handlerResults ++ [.ok 0 0] }

/-- R123, with R124 to R127: SAMPLE in the two peak modes, by the side of the baseline the sample is on and the side the
previous one was on; a sample equal to the baseline is above. Nothing else changes. -/
def Obligations.SampleInPeakModes : Prop :=
  ∀ (s : State) (x : BitVec 12), (s.meas.mode = .zeroToPeak ∨ s.meas.mode = .peakToPeak) →
    let b := s.cfg.baseline
    let m := s.meas
    let higher := if m.currentMaxSample.toNat < x.toNat then x else m.currentMaxSample
    let lower := if x.toNat < m.currentMinSample.toNat then x else m.currentMinSample
    let after (m' : Measurement) : State := { s with meas := m', handlerResults := s.handlerResults ++ [.ok 0 0] }
    (b.toNat ≤ x.toNat → m.polarity = .below →
      exec (.sample x) s = .next (after { m with
        minAverage := ema m.minAverage (m.currentMinSample.setWidth 32) s.cfg.shiftPeak
        currentMinSample := b
        currentMaxSample := higher
        polarity := .above })) ∧
    (b.toNat ≤ x.toNat → m.polarity = .above →
      exec (.sample x) s = .next (after { m with currentMaxSample := higher })) ∧
    (x.toNat < b.toNat → m.polarity = .above →
      exec (.sample x) s = .next (after { m with
        maxAverage := ema m.maxAverage (m.currentMaxSample.setWidth 32) s.cfg.shiftPeak
        currentMaxSample := b
        currentMinSample := lower
        polarity := .below })) ∧
    (x.toNat < b.toNat → m.polarity = .below →
      exec (.sample x) s = .next (after { m with currentMinSample := lower }))

/-- R129: after mode-entry, samples below the baseline change nothing; the first sample at or above it folds 0 into
`min_average`, which stays 0, and starts both held extrema. -/
def Obligations.FirstHalfCycle : Prop :=
  ∀ (c : Cfg) (mode : Mode) (xs : List (BitVec 12)) (x : BitVec 12), (mode = .zeroToPeak ∨ mode = .peakToPeak) →
    (∀ y ∈ xs, y.toNat < c.baseline.toNat) → c.baseline.toNat ≤ x.toNat →
    xs.foldl (fun m y => sampleStep c y m) (enterMode mode) = enterMode mode ∧
    sampleStep c x (enterMode mode) =
      { enterMode mode with currentMinSample := c.baseline, currentMaxSample := x, polarity := .above }

/-- R130: over any sample sequence after mode-entry the tracker folds once at each crossing and nowhere else. -/
def Obligations.FoldsCountCrossings : Prop :=
  ∀ (c : Cfg) (m : Measurement) (xs : List (BitVec 12)), (m.mode = .zeroToPeak ∨ m.mode = .peakToPeak) →
    m.polarity = .below →
    risingFolds c m xs =
      upwardSteps c.baseline xs + (if ∃ x ∈ xs.head?, c.baseline.toNat ≤ x.toNat then 1 else 0) ∧
    fallingFolds c m xs = downwardSteps c.baseline xs

/-- R128: SAMPLE in mode PSEUDO_RMS folds the magnitude `|s - BASELINE|` into `rect_average`; nothing else changes. -/
def Obligations.SampleInPseudoRmsMode : Prop :=
  ∀ (s : State) (x : BitVec 12), s.meas.mode = .pseudoRms →
    let r := if s.cfg.baseline.toNat ≤ x.toNat then x.toNat - s.cfg.baseline.toNat else s.cfg.baseline.toNat - x.toNat
    r ≤ max s.cfg.baseline.toNat (4095 - s.cfg.baseline.toNat) ∧
    exec (.sample x) s = .next { s with
      meas := { s.meas with rectAverage := ema s.meas.rectAverage (BitVec.ofNat 32 r) s.cfg.shiftRect }
      handlerResults := s.handlerResults ++ [.ok 0 0] }

/-! OVERFLOW and CAPTURE. -/

/-- R101: OVERFLOW has one command word; in mode FREQUENCY it counts modulo 256 and changes nothing else, in every other mode
it changes nothing; it returns Ok. -/
def Obligations.OverflowCounts : Prop :=
  encode .overflow = 0x2000000000 ∧ decode 0x2000000000 = .legal .overflow ∧
  (∀ s : State, s.meas.mode = .frequency →
    exec .overflow s = .next { s with
      meas := { s.meas with overflowCount := BitVec.ofNat 8 ((s.meas.overflowCount.toNat + 1) % 256) }
      handlerResults := s.handlerResults ++ [.ok 0 0] }) ∧
  (∀ s : State, s.meas.mode ≠ .frequency →
    exec .overflow s = .next { s with handlerResults := s.handlerResults ++ [.ok 0 0] })

/-- R104: the command word of CAPTURE carries the value in its low 16 bits; in mode FREQUENCY the elapsed count is taken
modulo 2^32 over the registers from before, and the count of captures stops at 255; in every other mode nothing changes; it
returns Ok. -/
def Obligations.CaptureFoldsElapsed : Prop :=
  (∀ c : BitVec 16, (encode (.capture c)).toNat = 0x3000000000 + c.toNat ∧
    decode (encode (.capture c)) = .legal (.capture c)) ∧
  (∀ (s : State) (c : BitVec 16), s.meas.mode = .frequency →
    let e := (c.toNat + 2 ^ 32 - s.meas.lastCapture.toNat + s.meas.overflowCount.toNat * 65536) % 2 ^ 32
    exec (.capture c) s = .next { s with
      meas := { s.meas with
        average := ema s.meas.average (BitVec.ofNat 32 e) s.cfg.shiftFreq
        lastCapture := c
        overflowCount := 0
        captureCount := BitVec.ofNat 8 (min (s.meas.captureCount.toNat + 1) 255) }
      handlerResults := s.handlerResults ++ [.ok 0 0] }) ∧
  (∀ (s : State) (c : BitVec 16), s.meas.mode ≠ .frequency →
    exec (.capture c) s = .next { s with handlerResults := s.handlerResults ++ [.ok 0 0] })

/-- R105: the elapsed count modulo 2^32, and its value when the capture is at or above the last one, below it with a counted
wrap, and below it with none; and the rule's example. -/
def Obligations.ElapsedByCases : Prop :=
  (∀ (c last : BitVec 16) (ovf : BitVec 8),
    (elapsed c last ovf).toNat = (c.toNat + 2 ^ 32 - last.toNat + ovf.toNat * 65536) % 2 ^ 32 ∧
    (last.toNat ≤ c.toNat →
      (elapsed c last ovf).toNat = c.toNat - last.toNat + ovf.toNat * 65536 ∧
      (elapsed c last ovf).toNat ≤ 0x00FFFFFF) ∧
    (c.toNat < last.toNat → 1 ≤ ovf.toNat →
      (elapsed c last ovf).toNat + last.toNat = c.toNat + ovf.toNat * 65536) ∧
    (c.toNat < last.toNat → ovf.toNat = 0 →
      (elapsed c last ovf).toNat = 2 ^ 32 - (last.toNat - c.toNat) ∧ 0xFFFF0000 < (elapsed c last ovf).toNat)) ∧
  elapsed 0x0010 0xFFF0 1 = 32

/-- R100: outside mode FREQUENCY, OVERFLOW and CAPTURE change nothing and return Ok. -/
def Obligations.TimerEventsGatedByMode : Prop :=
  ∀ (s : State) (c : BitVec 16), s.meas.mode ≠ .frequency →
    exec .overflow s = .next { s with handlerResults := s.handlerResults ++ [.ok 0 0] } ∧
    exec (.capture c) s = .next { s with handlerResults := s.handlerResults ++ [.ok 0 0] }

/-- R108: a wrap and an edge that coincide, accepted in either order: the wrap counts in the period that ends at the capture
or in the next one, and the total over the two periods is the same. -/
def Obligations.CoincidentWrapAndEdge : Prop :=
  ∀ (s : State) (c c' : BitVec 16) (n : BitVec 8), s.meas.mode = .frequency →
    s.meas.overflowCount.toNat < 255 → n.toNat < 255 →
    let m := s.meas
    ∃ t u v w : State,
      exec .overflow s = .next t ∧ exec (.capture c) t = .next u ∧
      exec (.capture c) s = .next v ∧ exec .overflow v = .next w ∧
      u.meas.average = ema m.average (elapsed c m.lastCapture (m.overflowCount + 1)) s.cfg.shiftFreq ∧
      w.meas.average = ema m.average (elapsed c m.lastCapture m.overflowCount) s.cfg.shiftFreq ∧
      u.meas.overflowCount = 0 ∧ w.meas.overflowCount = 1 ∧ u.meas.lastCapture = c ∧ w.meas.lastCapture = c ∧
      elapsed c m.lastCapture (m.overflowCount + 1) + elapsed c' c n =
        elapsed c m.lastCapture m.overflowCount + elapsed c' c (n + 1)

/-- R215: between SAMPLE and OVERFLOW or CAPTURE the order is unobservable. -/
def Obligations.SampleCommutesWithTimerEvents : Prop :=
  ∀ (s t u : State) (x : BitVec 12) (i : Instr), contextOf i = .timerHandler →
    exec (.sample x) s = .next t → exec i s = .next u →
    ∃ v : State, exec i t = .next v ∧ exec (.sample x) u = .next v

/-! MODE and RENDER. -/

/-- R140, R141: the five command words of MODE and its three reserved codes; MODE stores the mode and zeroes S1 to S10 whatever
the mode was, the same mode included, answers Ok, and touches nothing of the display driver. -/
def Obligations.ModeEntryZeroes : Prop :=
  (decode 0x4000000000 = .legal (.mode .dc) ∧ decode 0x4000000001 = .legal (.mode .frequency) ∧
    decode 0x4000000002 = .legal (.mode .zeroToPeak) ∧ decode 0x4000000003 = .legal (.mode .peakToPeak) ∧
    decode 0x4000000004 = .legal (.mode .pseudoRms)) ∧
  (∀ w : CmdWord, 0x4000000005 ≤ w.toNat → w.toNat ≤ 0x4000000007 → ∃ e, decode w = .illegal e) ∧
  ∀ (s : State) (m : Mode), s.drv.stage = .free →
    exec (.mode m) s = .next { s with
      meas := {
        mode := m, average := 0, minAverage := 0, maxAverage := 0, rectAverage := 0, lastCapture := 0, overflowCount := 0,
        captureCount := 0, currentMinSample := 0, currentMaxSample := 0, polarity := .below }
      responses := s.responses ++ [0x0000000000] }

/-- R146: RENDER in mode DC, where the average is within the bound of R24 (b). -/
def Obligations.RenderInDcMode : Prop :=
  ∀ s : State, s.drv.stage = .free → s.meas.mode = .dc → s.meas.average.toNat ≤ 4095 →
    s.meas.average.toNat * s.cfg.kV.toNat < 2 ^ 28 ∧ s.meas.average.toNat * s.cfg.kV.toNat / 1024 ≤ 262076 ∧
    exec .render s = .next { s with
      responses := s.responses ++
        [BitVec.ofNat 40 (4 * 2 ^ 32 + s.meas.average.toNat * s.cfg.kV.toNat / 1024)] }

/-- R147, R152, R153: RENDER in mode FREQUENCY: not yet valid first, then the band, then the quotient. -/
def Obligations.RenderInFrequencyMode : Prop :=
  ∀ s : State, cfgLegal s.cfg = true → s.drv.stage = .free → s.meas.mode = .frequency →
    let answered (w : RspWord) : State := { s with responses := s.responses ++ [w] }
    (s.meas.captureCount.toNat ≤ s.cfg.nSettle.toNat → exec .render s = .next (answered 0x3000000000)) ∧
    (s.cfg.nSettle.toNat < s.meas.captureCount.toNat →
      (s.meas.average.toNat < s.cfg.avgFMin.toNat ∨ s.cfg.avgFMax.toNat < s.meas.average.toNat →
        exec .render s = .next (answered 0x1000000000)) ∧
      (s.cfg.avgFMin.toNat ≤ s.meas.average.toNat ∧ s.meas.average.toNat ≤ s.cfg.avgFMax.toNat →
        0 < s.meas.average.toNat ∧ s.cfg.kF.toNat / s.meas.average.toNat ≤ s.cfg.kF.toNat ∧
        exec .render s = .next (answered (BitVec.ofNat 40
          (s.cfg.dpPos.frequency.toNat * 2 ^ 32 + s.cfg.kF.toNat / s.meas.average.toNat)))))

/-- R148: RENDER in mode ZERO_TO_PEAK, where the averages are within the bounds of R24 (a). -/
def Obligations.RenderInZeroToPeakMode : Prop :=
  ∀ s : State, s.drv.stage = .free → s.meas.mode = .zeroToPeak → s.meas.maxAverage.toNat ≤ 4095 →
    let answered (w : RspWord) : State := { s with responses := s.responses ++ [w] }
    (s.meas.maxAverage.toNat < s.cfg.baseline.toNat → exec .render s = .next (answered 0x1000000000)) ∧
    (s.cfg.baseline.toNat ≤ s.meas.maxAverage.toNat →
      exec .render s = .next (answered (BitVec.ofNat 40 (s.cfg.dpPos.zeroToPeak.toNat * 2 ^ 32 +
        2 * (s.meas.maxAverage.toNat - s.cfg.baseline.toNat) * s.cfg.kV.toNat / 1024))))

/-- R149: RENDER in mode PEAK_TO_PEAK, where the averages are within the bounds of R24 (a). -/
def Obligations.RenderInPeakToPeakMode : Prop :=
  ∀ s : State, s.drv.stage = .free → s.meas.mode = .peakToPeak → s.meas.maxAverage.toNat ≤ 4095 →
    let answered (w : RspWord) : State := { s with responses := s.responses ++ [w] }
    (s.meas.maxAverage.toNat < s.meas.minAverage.toNat → exec .render s = .next (answered 0x1000000000)) ∧
    (s.meas.minAverage.toNat ≤ s.meas.maxAverage.toNat →
      exec .render s = .next (answered (BitVec.ofNat 40 (s.cfg.dpPos.peakToPeak.toNat * 2 ^ 32 +
        (s.meas.maxAverage.toNat - s.meas.minAverage.toNat) * s.cfg.kV.toNat / 512))))

/-- R150: RENDER in mode PSEUDO_RMS, where the average is within the bound of R24 (a). -/
def Obligations.RenderInPseudoRmsMode : Prop :=
  ∀ s : State, s.drv.stage = .free → s.meas.mode = .pseudoRms → s.meas.rectAverage.toNat ≤ 4095 →
    exec .render s = .next { s with
      responses := s.responses ++ [BitVec.ofNat 40 (s.cfg.dpPos.pseudoRms.toNat * 2 ^ 32 +
        2 * s.meas.rectAverage.toNat * s.cfg.kV.toNat / 1024)] }

/-- R151: under a legal configuration and the bounds of R24, the 32-bit value of every Ok result of RENDER is the exact value of
its formula: in each mode the product is below 2^29 or the quotient at most `K_F`, no subtraction goes below zero and nothing is
cut off; and the two peak modes use the same scale. -/
def Obligations.RenderProductsFit : Prop :=
  (∀ (c : Cfg) (m : Measurement), cfgLegal c = true → measBounds c m →
    (m.mode = .dc →
      m.average.toNat * c.kV.toNat < 2 ^ 29 ∧
      ∃ value, renderResult c m = .ok value 4 ∧ value.toNat = m.average.toNat * c.kV.toNat / 1024) ∧
    (m.mode = .frequency → c.nSettle.toNat < m.captureCount.toNat → c.avgFMin.toNat ≤ m.average.toNat →
      m.average.toNat ≤ c.avgFMax.toNat →
      ∃ value, renderResult c m = .ok value c.dpPos.frequency ∧ value.toNat = c.kF.toNat / m.average.toNat ∧
        value.toNat ≤ c.kF.toNat) ∧
    (m.mode = .zeroToPeak → c.baseline.toNat ≤ m.maxAverage.toNat →
      2 * (m.maxAverage.toNat - c.baseline.toNat) * c.kV.toNat < 2 ^ 29 ∧
      ∃ value, renderResult c m = .ok value c.dpPos.zeroToPeak ∧
        value.toNat = 2 * (m.maxAverage.toNat - c.baseline.toNat) * c.kV.toNat / 1024 ∧
        value.toNat = (m.maxAverage.toNat - c.baseline.toNat) * c.kV.toNat / 512) ∧
    (m.mode = .peakToPeak → m.minAverage.toNat ≤ m.maxAverage.toNat →
      (m.maxAverage.toNat - m.minAverage.toNat) * c.kV.toNat < 2 ^ 29 ∧
      ∃ value, renderResult c m = .ok value c.dpPos.peakToPeak ∧
        value.toNat = (m.maxAverage.toNat - m.minAverage.toNat) * c.kV.toNat / 512) ∧
    (m.mode = .pseudoRms →
      2 * m.rectAverage.toNat * c.kV.toNat < 2 ^ 29 ∧
      ∃ value, renderResult c m = .ok value c.dpPos.pseudoRms ∧
        value.toNat = 2 * m.rectAverage.toNat * c.kV.toNat / 1024) ∧
    (∀ value dp, renderResult c m = .ok value dp →
      (m.mode = .frequency → 0 < m.average.toNat ∧ c.nSettle.toNat < m.captureCount.toNat ∧
        c.avgFMin.toNat ≤ m.average.toNat ∧ m.average.toNat ≤ c.avgFMax.toNat) ∧
      (m.mode = .zeroToPeak → c.baseline.toNat ≤ m.maxAverage.toNat) ∧
      (m.mode = .peakToPeak → m.minAverage.toNat ≤ m.maxAverage.toNat))) ∧
  ∀ (x : Nat) (k : BitVec 16), (2 * x * k.toNat) >>> 10 = (x * k.toNat) >>> 9

/-- R156: RENDER of a freshly entered mode, and RENDER twice. -/
def Obligations.RenderOfFreshMode : Prop :=
  (∀ (s t : State) (m : Mode), cfgLegal s.cfg = true → s.drv.stage = .free → exec (.mode m) s = .next t →
    exec .render t = .next { t with responses := t.responses ++ [freshModeResponse s.cfg m] }) ∧
  (∀ s t : State, exec .render s = .next t →
    ∃ w : RspWord, t = { s with responses := s.responses ++ [w] } ∧
      exec .render t = .next { t with responses := t.responses ++ [w] })

/-! The display driver. -/

/-- R171: TRANSMIT when both waits end with `done`: one transaction is committed, the display register its address selects
holds the value and every other one what it held, the answer is Ok, and nothing else changes. The ticks that carry an answer
are the model's (log entry 5). -/
def Obligations.TransmitCommits : Prop :=
  ∀ (s : State) (a v : Byte) (late₁ late₂ : Nat) (rest : List Input), s.drv.stage = .free →
    late₁ < s.cfg.tTimeout → late₂ < s.cfg.tTimeout →
    s.inputs = operationInputs s.cfg [.done late₁, .done late₂] ++ rest →
    exec (.transmit a v) s = .next { s with
      drv := Driver.idle
      link := s.link ++ [.stb0, .byte a, .byte v, .stb1]
      disp := s.disp.write (a.toNat % 16) v
      inputs := rest
      responses := s.responses ++ [0x0000000000] } ∧
    (s.disp.write (a.toNat % 16) v).read (a.toNat % 16) = v ∧
    ∀ b : Nat, b ≠ a.toNat % 16 → (s.disp.write (a.toNat % 16) v).read b = s.disp.read b

/-- R174: TRANSMIT when the wait of its first or of its second byte ends with `never`: the strobe is raised, the answer is
Error(Timeout), every display register is unspecified (a new draw of the free value, log entry 9), and no other register is
changed. The ticks that carry an answer are the model's (log entry 5). -/
def Obligations.TransmitTimesOut : Prop :=
  ∀ (s : State) (a v : Byte) (late : Nat) (rest : List Input), s.drv.stage = .free → late < s.cfg.tTimeout →
    let failed (trace : List LinkEvent) : State := { s with
      drv := Driver.idle
      link := s.link ++ trace
      disp := s.disp.lose
      inputs := rest
      responses := s.responses ++ [0x2000000000] }
    (s.inputs = operationInputs s.cfg [.never] ++ rest →
      exec (.transmit a v) s = .next (failed [.stb0, .byte a, .stb1])) ∧
    (s.inputs = operationInputs s.cfg [.done late, .never] ++ rest →
      exec (.transmit a v) s = .next (failed [.stb0, .byte a, .byte v, .stb1]))

/-- R176 to R178, R70, R71: DIGITS when every wait ends with `done`: digit `i` of weight `10^(i-1)` goes to address `i`, the
least significant first, with bit 7 set at the decimal point only; the display registers 1 to 8 hold the digits, bits 3 to 0 the
digit and bit 7 the point that R43 shows at each position; the others are as before, and the answer is Ok. The ticks that carry an
answer are the model's (log entry 5). -/
def Obligations.DigitsCommitsEightDigits : Prop :=
  ∀ (s : State) (value : BitVec 32) (dp : BitVec 4) (lates : List Nat) (rest : List Input),
    s.drv.stage = .free → dp.toNat ≤ 8 → lates.length = 16 → (∀ n ∈ lates, n < s.cfg.tTimeout) →
    s.inputs = operationInputs s.cfg (lates.map .done) ++ rest →
    let digit (i : Nat) : Byte :=
      BitVec.ofNat 8 (value.toNat / 10 ^ (i - 1) % 10 + if i = dp.toNat then 0x80 else 0)
    ∃ disp : DisplaySpace,
      exec (.digits value dp) s = .next { s with
        drv := Driver.idle
        link := s.link ++ (List.range' 1 8).flatMap fun i => [.stb0, .byte (BitVec.ofNat 8 i), .byte (digit i), .stb1]
        disp := disp
        inputs := rest
        responses := s.responses ++ [0x0000000000] } ∧
      (∀ i, 1 ≤ i → i ≤ 8 → disp.read i = digit i ∧
        (disp.digitShown i).toNat = value.toNat / 10 ^ (i - 1) % 10 ∧ (disp.pointShown i = true ↔ i = dp.toNat)) ∧
      (∀ i, i = 0 ∨ 9 ≤ i → disp.read i = s.disp.read i)

/-- R180: ERRDISP when every wait ends with `done`: the four transactions of `ERR_SEQ` are committed in table order, the answer
is Ok, the display registers the table does not name keep their contents, and nothing else changes. The ticks that carry an
answer are the model's (log entry 5). -/
def Obligations.ErrdispCommitsTable : Prop :=
  ∀ (s : State) (lates : List Nat) (rest : List Input), s.drv.stage = .free → lates.length = 8 →
    (∀ n ∈ lates, n < s.cfg.tTimeout) →
    s.inputs = operationInputs s.cfg (lates.map .done) ++ rest →
    let disp := s.cfg.errSeq.toList.foldl (fun m f => m.write (f.addr.toNat % 16) f.value) s.disp
    exec .errdisp s = .next { s with
      drv := Driver.idle
      link := s.link ++ s.cfg.errSeq.toList.flatMap transactionTrace
      disp := disp
      inputs := rest
      responses := s.responses ++ [0x0000000000] } ∧
    ∀ a : Nat, (∀ f ∈ s.cfg.errSeq.toList, f.addr.toNat % 16 ≠ a) → disp.read a = s.disp.read a

/-- R184: SETUP when every wait ends with `done`: the first `SETUP_LEN` transactions of `SETUP_SEQ` are committed in table
order, the answer is Ok, the display registers they do not name keep their contents, and nothing else changes. The ticks that
carry an answer are the model's (log entry 5). -/
def Obligations.SetupCommitsTable : Prop :=
  ∀ (s : State) (lates : List Nat) (rest : List Input), cfgLegal s.cfg = true → s.drv.stage = .free →
    lates.length = 2 * s.cfg.setupLen.toNat → (∀ n ∈ lates, n < s.cfg.tTimeout) →
    s.inputs = operationInputs s.cfg (lates.map .done) ++ rest →
    let frames := s.cfg.setupSeq.toList.take s.cfg.setupLen.toNat
    let disp := frames.foldl (fun m f => m.write (f.addr.toNat % 16) f.value) s.disp
    exec .setup s = .next { s with
      drv := Driver.idle
      link := s.link ++ frames.flatMap transactionTrace
      disp := disp
      inputs := rest
      responses := s.responses ++ [0x0000000000] } ∧
    ∀ a : Nat, (∀ f ∈ frames, f.addr.toNat % 16 ≠ a) → disp.read a = s.disp.read a

/-- R50: SETUP run again, every wait ending with `done`, produces the same link trace and leaves the same display registers. The
ticks that carry an answer are the model's (log entry 5). -/
def Obligations.SetupIdempotent : Prop :=
  ∀ (s t u : State) (lates lates' : List Nat) (rest : List Input), cfgLegal s.cfg = true → s.drv.stage = .free →
    lates.length = 2 * s.cfg.setupLen.toNat → (∀ n ∈ lates, n < s.cfg.tTimeout) →
    lates'.length = 2 * s.cfg.setupLen.toNat → (∀ n ∈ lates', n < s.cfg.tTimeout) →
    s.inputs = operationInputs s.cfg (lates.map .done) ++ (operationInputs s.cfg (lates'.map .done) ++ rest) →
    exec .setup s = .next t → exec .setup t = .next u →
    (∃ trace : List LinkEvent, t.link = s.link ++ trace ∧ u.link = t.link ++ trace) ∧
    ∀ a : Nat, u.disp.read a = t.disp.read a

/-- R171, R174, R176, R179, R180, R184, R48: with its answers presented one after the other, every display operation gives
what the blocking procedure gives: the link trace, the display registers and the result, an abort at the first timeout
included; the measurement state is untouched and the driver is idle again. The result of the comparison is the model's
`blockingRun`, written from the rules' pseudocode; the ticks that carry an answer are the model's (log entry 5). -/
def Obligations.DisplayRefinesBlockingProcedure : Prop :=
  ∀ (s : State) (i : Instr) (frames : List Frame) (given : List Answer) (rest : List Input),
    cfgLegal s.cfg = true → s.drv.stage = .free → i.wellFormed = true → displayFrames s.cfg i = some frames →
    (∀ a ∈ given, a.inBound s.cfg = true) →
    let answers := scriptAnswers (2 * frames.length) given
    s.inputs = operationInputs s.cfg answers ++ rest →
    ∃ r : Result, (blockingRun frames answers s.disp).2.2 = some r ∧
      exec i s = .next { s with
        drv := Driver.idle
        link := s.link ++ (blockingRun frames answers s.disp).1
        disp := (blockingRun frames answers s.disp).2.1
        inputs := rest
        responses := s.responses ++ [responseWord r] }

/-- R171, R175: a display operation begins with `seq_idx` 0 for TRANSMIT and 1 for the others, and gives no response yet; its
first two moves lower the strobe and issue the first address byte. The model's choices: with no tick presented next it stays in
progress where it stands (log entry 6), a tick being one move of the driver (log entry 5), one link event at a time (log entry
23); where it stands, the transaction in progress, those after it and the time spent are fields of the model (log entry 21). -/
def Obligations.DisplayOperationStarts : Prop :=
  ∀ (s : State) (i : Instr) (f : Frame) (later : List Frame), s.drv.stage = .free → i.wellFormed = true →
    displayFrames s.cfg i = some (f :: later) →
    let number : BitVec 4 := if ∃ a v, i = .transmit a v then 0 else 1
    ((∀ (d : Bool) (rest : List Input), s.inputs ≠ .tick d :: rest) →
      exec i s = .next { s with
        drv := {
          strobe := .high, txPhase := .idle, seqIdx := number, stage := .opening, frame := f, queue := later,
          waited := 0 } }) ∧
    (∀ (d : Bool) (rest : List Input), s.inputs = .tick d :: rest →
      (∀ (d' : Bool) (rest' : List Input), rest ≠ .tick d' :: rest') →
      exec i s = .next { s with
        drv := {
          strobe := .low, txPhase := .idle, seqIdx := number, stage := .addressing, frame := f, queue := later,
          waited := 0 }
        link := s.link ++ [.stb0]
        inputs := rest }) ∧
    ∀ (d d' : Bool) (rest : List Input), s.inputs = .tick d :: .tick d' :: rest →
      (∀ (d'' : Bool) (rest' : List Input), rest ≠ .tick d'' :: rest') →
      exec i s = .next { s with
        drv := {
          strobe := .low, txPhase := .b1Wait, seqIdx := number, stage := .sending, frame := f, queue := later,
          waited := 0 }
        link := s.link ++ [.stb0, .byte f.addr]
        inputs := rest }

/-- R171, R174, R175: what a move of the driver does to a display operation in progress, whatever was taken before it. The strobe
goes low; the address byte goes out; within a transaction the registers only go forward, and the value byte goes out on entering
B2_WAIT and nothing else does. A wait that ends with `never` raises the strobe and leaves every display register unspecified (log
entry 9), and Error(Timeout) is to be returned. After the value byte the strobe is raised and the display register its address
selects is written; then Ok is to be returned, or the next transaction is to begin with `seq_idx` one higher. The last move gives
the response. Nothing outside the driver changes. How polls and delays are counted in ticks is the model's (log entry 5), as are
phases of no length (log entry 22), the moves a transaction is cut into (log entry 23) and the fields that say where the operation
stands and what is still to send (log entry 21). -/
def Obligations.SequencerGoesForward : Prop :=
  ∀ (s : State) (d : Bool), s.drv.stage ≠ .free →
    let t := driverTick d s
    let timedOut :=
      (s.drv.txPhase = .b1Wait ∨ s.drv.txPhase = .b2Wait) ∧ d = false ∧ s.cfg.tTimeout ≤ s.drv.waited + 1
    let committed :=
      (s.drv.txPhase = .b2Wait ∧ d = true ∧ s.cfg.tByteGap = 0) ∨
      (s.drv.txPhase = .b2Gap ∧ s.cfg.tByteGap ≤ s.drv.waited + 1)
    let written := s.disp.write (s.drv.frame.addr.toNat % 16) s.drv.frame.value
    (t.meas = s.meas ∧ t.cfg = s.cfg ∧ t.inputs = s.inputs ∧ t.handlerResults = s.handlerResults) ∧
    (s.drv.stage = .opening →
      t = { s with link := s.link ++ [.stb0], drv := { s.drv with strobe := .low, stage := .addressing } }) ∧
    (s.drv.stage = .addressing →
      t = { s with
        link := s.link ++ [.byte s.drv.frame.addr]
        drv := { s.drv with txPhase := .b1Wait, stage := .sending, waited := 0 } }) ∧
    (∀ r : Result, s.drv.stage = .returning r →
      t = { s with drv := Driver.idle, responses := s.responses ++ [responseWord r] }) ∧
    (s.drv.stage = .sending → s.drv.txPhase ≠ .idle →
      (¬timedOut → ¬committed →
        t.drv.stage = .sending ∧ t.drv.txPhase ≠ .idle ∧ t.drv.seqIdx = s.drv.seqIdx ∧
        (phaseCode s.drv.txPhase).toNat ≤ (phaseCode t.drv.txPhase).toNat ∧ t.drv.frame = s.drv.frame ∧
        t.drv.queue = s.drv.queue ∧ t.drv.strobe = s.drv.strobe ∧ t.responses = s.responses ∧ t.disp = s.disp ∧
        (s.drv.txPhase = .b1Wait → d = false → t.drv.txPhase = .b1Wait) ∧
        (s.drv.txPhase = .b1Wait → d = true → t.drv.txPhase = if s.cfg.tByteGap = 0 then .b2Wait else .b1Gap) ∧
        (s.drv.txPhase = .b1Gap →
          t.drv.txPhase = if s.cfg.tByteGap ≤ s.drv.waited + 1 then .b2Wait else .b1Gap) ∧
        (s.drv.txPhase = .b2Wait → t.drv.txPhase = if d = true then .b2Gap else .b2Wait) ∧
        (t.drv.waited = if t.drv.txPhase = s.drv.txPhase then s.drv.waited + 1 else 0) ∧
        t.link = s.link ++
          if s.drv.txPhase ≠ .b2Wait ∧ t.drv.txPhase = .b2Wait then [.byte s.drv.frame.value] else []) ∧
      (timedOut →
        t.drv = { Driver.idle with stage := .returning .timeout } ∧ t.responses = s.responses ∧
        t.link = s.link ++ [.stb1] ∧ t.disp = s.disp.lose) ∧
      (committed → s.drv.queue = [] →
        t.drv = { Driver.idle with stage := .returning (.ok 0 0) } ∧ t.responses = s.responses ∧
        t.link = s.link ++ [.stb1] ∧ t.disp = written) ∧
      (committed → ∀ (f : Frame) (later : List Frame), s.drv.queue = f :: later →
        t.drv = {
          strobe := .high, txPhase := .idle, seqIdx := s.drv.seqIdx + 1, stage := .opening, frame := f, queue := later,
          waited := 0 } ∧
        t.responses = s.responses ∧ t.link = s.link ++ [.stb1] ∧ t.disp = written))

/-- R48, R171, R174, R179: a display operation whose answers arrive with SAMPLE, OVERFLOW and CAPTURE anywhere between them, one
step at a time, gives the link trace, the display registers and the response of the blocking procedure, and the measurement state
is what those handler operations alone leave. The result of the comparison is the model's `blockingRun`, written from the rules'
pseudocode; the ticks that carry an answer are the model's (log entries 5 and 6). -/
def Obligations.InterruptedDisplayOperation : Prop :=
  ∀ (s : State) (i : Instr) (frames : List Frame) (given : List Answer) (ins : List Input),
    cfgLegal s.cfg = true → s.drv.stage = .free → i.wellFormed = true → displayFrames s.cfg i = some frames →
    (∀ a ∈ given, a.inBound s.cfg = true) →
    (∀ x ∈ ins, (∃ d, x = .tick d) ∨ ∃ w j, x = .cmd w ∧ decode w = .legal j ∧ contextOf j ≠ .mainLoop) →
    let answers := scriptAnswers (2 * frames.length) given
    let ticks := ins.filter fun x => match x with | .tick _ => true | _ => false
    let events := ins.filter fun x => match x with | .tick _ => false | _ => true
    ticks = operationInputs s.cfg answers →
    ∃ (t v : State) (r : Result), (blockingRun frames answers s.disp).2.2 = some r ∧
      Sys2Proof.core.run (ins.length + 1) { s with inputs := .cmd (encode i) :: ins } = .next t ∧
      Sys2Proof.core.run events.length { s with inputs := events } = .next v ∧
      t = { s with
        meas := v.meas
        drv := Driver.idle
        disp := (blockingRun frames answers s.disp).2.1
        inputs := []
        link := s.link ++ (blockingRun frames answers s.disp).1
        responses := s.responses ++ [responseWord r]
        handlerResults := v.handlerResults }

/-- R172, R173: the driver never blocks forever: whatever the completion flag does, a display operation in progress has
returned, once, after `2 * (T_TIMEOUT + T_BYTE_GAP + 1)` moves for each transaction it has still to finish and one to return. What
is counted as one move is the model's choice (log entry 5). -/
def Obligations.DriverReturnsWithinBound : Prop :=
  ∀ (s : State) (ds : List Bool), cfgLegal s.cfg = true → driverConsistent s.cfg s.drv → s.drv.stage ≠ .free →
    ds.length = (1 + s.drv.queue.length) * (2 * (s.cfg.tTimeout + s.cfg.tByteGap + 1)) + 1 →
    s.inputs = ds.map Input.tick →
    ∃ t : State, Sys2Proof.core.run ds.length s = .next t ∧ t.drv = Driver.idle ∧
      (t.responses = s.responses ++ [0x0000000000] ∨ t.responses = s.responses ++ [0x2000000000])

/-- R217, R214, R60: while a display operation is in progress `cmd_ready` is low for main-loop operations and they are not
accepted (the refusal is log entry 7); handler operations are accepted in every state. -/
def Obligations.MainLoopBlockedHandlersAccepted : Prop :=
  (∀ (s : State) (i : Instr), s.drv.stage ≠ .free → i.wellFormed = true → contextOf i = .mainLoop →
    cmdReady i s = false ∧ exec i s = .refused .commandNotReady) ∧
  (∀ (s : State) (i : Instr), contextOf i ≠ .mainLoop → cmdReady i s = true ∧ ∃ t : State, exec i s = .next t)

/-- R48: a handler operation and a tick of the driver may be taken in either order. -/
def Obligations.HandlersCommuteWithDriver : Prop :=
  ∀ (s t : State) (i : Instr) (d : Bool), contextOf i ≠ .mainLoop → exec i s = .next t →
    exec i (driverTick d s) = .next (driverTick d t)

/-- R48: over any interleaving of handler operations with the ticks of a display operation, the link trace, the display
registers, the responses and the driver are those of the ticks alone, and the measurement state is that of the handler
operations alone. -/
def Obligations.InterleavingUnobservable : Prop :=
  ∀ (s : State) (ins : List Input), cfgLegal s.cfg = true →
    (∀ x ∈ ins, (∃ d, x = .tick d) ∨ ∃ w i, x = .cmd w ∧ decode w = .legal i ∧ contextOf i ≠ .mainLoop) →
    let ticks := ins.filter fun x => match x with | .tick _ => true | _ => false
    let events := ins.filter fun x => match x with | .tick _ => false | _ => true
    ∃ t u v : State,
      Sys2Proof.core.run ins.length { s with inputs := ins } = .next t ∧
      Sys2Proof.core.run ticks.length { s with inputs := ticks } = .next u ∧
      Sys2Proof.core.run events.length { s with inputs := events } = .next v ∧
      t.drv = u.drv ∧ t.link = u.link ∧ t.disp = u.disp ∧ t.responses = u.responses ∧
      t.meas = v.meas ∧ t.handlerResults = v.handlerResults

/-! Errors. -/

/-- R218: an Error from RENDER or an illegal command changes no register, and an Error(Timeout) leaves the driver at its idle
values and the measurement state as it was. -/
def Obligations.ErrorsLeaveRegisters : Prop :=
  ∀ (s t : State) (i : Instr) (e : Result), s.drv = Driver.idle → exec i s = .next t →
    (∀ value dp, e ≠ .ok value dp) → t.responses = s.responses ++ [responseWord e] →
    t.meas = s.meas ∧ t.drv = s.drv ∧ t.cfg = s.cfg

/-- R210, R219: no step of the block is a fault; with the driver idle every operation is available, whatever happened
before. -/
def Obligations.EveryOperationAvailable : Prop :=
  (∀ (s : State) (f : Fault), step s ≠ .fault f) ∧
  (∀ (s : State) (i : Instr), s.drv.stage = .free → ∃ t : State, exec i s = .next t)

/-- R263, R44, R47: what was sent stays sent: a step only appends to the link trace, and gives at most one response; a move of the
driver puts at most one event on the link, so that a `rst` or a handler operation may come between any two (D19). -/
def Obligations.OutputsOnlyGrow : Prop :=
  ∀ s t : State, step s = .next t →
    (∃ trace : List LinkEvent, t.link = s.link ++ trace) ∧
    (t.responses = s.responses ∨ ∃ w : RspWord, t.responses = s.responses ++ [w]) ∧
    (∀ (d : Bool) (rest : List Input), s.inputs = .tick d :: rest →
      t.link = s.link ∨ ∃ e : LinkEvent, t.link = s.link ++ [e])

/-! Ownership. -/

/-- R23: an operation changes a register only if it belongs to the component that owns the register, or is MODE, which writes
S0 to S10. -/
def Obligations.RegistersHaveOneOwner : Prop :=
  ∀ (s t : State) (i : Instr), exec i s = .next t →
    (t.meas.mode ≠ s.meas.mode → ∃ m, i = .mode m) ∧
    (t.meas.average ≠ s.meas.average →
      (∃ m, i = .mode m) ∨ (s.meas.mode = .dc ∧ ∃ x, i = .sample x) ∨
      (s.meas.mode = .frequency ∧ ∃ c, i = .capture c)) ∧
    ((t.meas.minAverage ≠ s.meas.minAverage ∨ t.meas.maxAverage ≠ s.meas.maxAverage ∨
        t.meas.currentMinSample ≠ s.meas.currentMinSample ∨ t.meas.currentMaxSample ≠ s.meas.currentMaxSample ∨
        t.meas.polarity ≠ s.meas.polarity) →
      (∃ m, i = .mode m) ∨
      ((s.meas.mode = .zeroToPeak ∨ s.meas.mode = .peakToPeak) ∧ ∃ x, i = .sample x)) ∧
    (t.meas.rectAverage ≠ s.meas.rectAverage →
      (∃ m, i = .mode m) ∨ (s.meas.mode = .pseudoRms ∧ ∃ x, i = .sample x)) ∧
    ((t.meas.lastCapture ≠ s.meas.lastCapture ∨ t.meas.captureCount ≠ s.meas.captureCount) →
      (∃ m, i = .mode m) ∨ (s.meas.mode = .frequency ∧ ∃ c, i = .capture c)) ∧
    (t.meas.overflowCount ≠ s.meas.overflowCount →
      (∃ m, i = .mode m) ∨ (s.meas.mode = .frequency ∧ (i = .overflow ∨ ∃ c, i = .capture c))) ∧
    ((t.drv ≠ s.drv ∨ t.link ≠ s.link ∨ t.disp ≠ s.disp) → (displayFrames s.cfg i).isSome = true)

/-- R11: only MODE and reset change the mode, over every step. -/
def Obligations.OnlyModeOrResetChangesMode : Prop :=
  ∀ s t : State, step s = .next t → t.meas.mode ≠ s.meas.mode →
    ∃ rest : List Input, s.inputs = .rst :: rest ∨
      ∃ w : CmdWord, s.inputs = .cmd w :: rest ∧ decode w = .legal (.mode t.meas.mode)

/-! Reset. -/

/-- R25: every register at reset, which is the state MODE DC produces. The display registers are outside the block:
unspecified, each holds the free value of its draw (log entry 9). -/
def Obligations.ResetValues : Prop :=
  State.reset.meas = {
    mode := .dc, average := 0, minAverage := 0, maxAverage := 0, rectAverage := 0, lastCapture := 0, overflowCount := 0,
    captureCount := 0, currentMinSample := 0, currentMaxSample := 0, polarity := .below } ∧
  State.reset.drv.strobe = .high ∧ State.reset.drv.txPhase = .idle ∧ State.reset.drv.seqIdx = 0 ∧
  (∃ t : State, exec (.mode .dc) State.reset = .next t ∧ t.meas = State.reset.meas ∧ t.drv = State.reset.drv) ∧
  ∀ a : Nat, State.reset.disp.read a = Config.unspecifiedDisplay State.reset.disp.draws a

/-- R241: after reset, under any legal configuration, the block waits; its state is that after MODE DC; handler operations are
accepted at once; RENDER returns Ok(0, 4). -/
def Obligations.AfterReset : Prop :=
  ∀ c : Cfg, cfgLegal c = true →
    step (State.resetWith c) = .next (State.resetWith c) ∧
    exec (.mode .dc) (State.resetWith c) = .next { State.resetWith c with responses := [0x0000000000] } ∧
    (∀ i : Instr, contextOf i ≠ .mainLoop → ∃ t : State, exec i (State.resetWith c) = .next t) ∧
    exec .render (State.resetWith c) = .next { State.resetWith c with responses := [0x0400000000] }

/-- R240, R263: `rst` gives every register its reset value; a display operation in progress is abandoned without a response, and
nothing is put on the link but the strobe going high. What the display registers hold after an abandoned operation is
unspecified (U15; a new draw of the free value, log entry 9). The link event of the rising strobe is log entry 10. A `rst` may
come after any number of a display operation's link events, before the first and after the last included: the trace is cut
there. The moves that lead to it are the model's (log entries 5 and 23). -/
def Obligations.ResetInput : Prop :=
  (∀ (s : State) (rest : List Input), cfgLegal s.cfg = true → s.inputs = .rst :: rest →
    ∃ t : State, step s = .next t ∧ t.meas = (State.resetWith s.cfg).meas ∧ t.drv = Driver.idle ∧
      t.cfg = s.cfg ∧ t.inputs = rest ∧ t.responses = s.responses ∧ t.handlerResults = s.handlerResults ∧
      (s.drv.strobe = .high → t.link = s.link) ∧ (s.drv.strobe = .low → t.link = s.link ++ [.stb1]) ∧
      (s.drv.stage = .free → t.disp = s.disp) ∧ (s.drv.stage ≠ .free → t.disp = s.disp.lose)) ∧
  ∀ (s : State) (i : Instr) (frames : List Frame) (given : List Answer) (k : Nat),
    cfgLegal s.cfg = true → s.drv.stage = .free → i.wellFormed = true → displayFrames s.cfg i = some frames →
    (∀ a ∈ given, a.inBound s.cfg = true) →
    let answers := scriptAnswers (2 * frames.length) given
    let trace := (blockingRun frames answers s.disp).1
    k ≤ trace.length →
    ∃ (n : Nat) (t : State),
      Sys2Proof.core.run 2
        { s with inputs := .cmd (encode i) :: ((operationInputs s.cfg answers).take n ++ [.rst]) } = .next t ∧
      t.link = s.link ++ trace.take k ++ (if linkFraming (trace.take k) = some .closed then [] else [.stb1]) ∧
      t.responses = s.responses ∧ t.drv = Driver.idle ∧ t.inputs = []

/-! Invariants. -/

/-- The invariants hold at reset, under any configuration. -/
def Obligations.InvariantsAtReset : Prop :=
  ∀ c : Cfg, measBounds c (State.resetWith c).meas ∧ driverConsistent c (State.resetWith c).drv ∧
    linkWellFramed (State.resetWith c) ∧ (State.resetWith c).disp.wf = true

/-- R24 (a) to (d): every step keeps the bounds of the measurement state. -/
def Obligations.StepKeepsMeasBounds : Prop :=
  ∀ s t : State, measBounds s.cfg s.meas → step s = .next t → measBounds t.cfg t.meas

/-- R24 (d): after a falling fold `current_max_sample` is at least the baseline, and it stays so until the next mode-entry or
reset. -/
def Obligations.HeldMaximumAfterFold : Prop :=
  (∀ (c : Cfg) (x : BitVec 12) (m : Measurement), (m.mode = .zeroToPeak ∨ m.mode = .peakToPeak) →
    m.polarity = .above → x.toNat < c.baseline.toNat →
    (sampleStep c x m).currentMaxSample.toNat = c.baseline.toNat) ∧
  (∀ s t : State, step s = .next t → s.cfg.baseline.toNat ≤ s.meas.currentMaxSample.toNat →
    s.cfg.baseline.toNat ≤ t.meas.currentMaxSample.toNat ∨
    ∃ rest : List Input, s.inputs = .rst :: rest ∨ ∃ w m, s.inputs = .cmd w :: rest ∧ decode w = .legal (.mode m))

/-- R19, R20, R24 (f), R49, R170: every step keeps the driver consistent and the link trace a sequence of transactions, open
exactly while the driver is inside one; nothing but a `rst` comes between the falling strobe and the address byte (R240). The
strobe's edge at a `rst` is log entry 10. -/
def Obligations.StepKeepsDriverAndFraming : Prop :=
  ∀ s t : State, driverConsistent s.cfg s.drv → linkWellFramed s → step s = .next t →
    driverConsistent t.cfg t.drv ∧ linkWellFramed t ∧
    (s.drv.stage = .addressing → (∀ rest : List Input, s.inputs ≠ .rst :: rest) →
      t.link = s.link ∨ t.link = s.link ++ [.byte s.drv.frame.addr])

/-- R40, R43: every step keeps the display register space in its canonical form, addresses 0 to 15 strictly rising. -/
def Obligations.StepKeepsDisplayRegisters : Prop :=
  ∀ s t : State, s.disp.wf = true → step s = .next t → t.disp.wf = true
end

