-- ==== Sys2Proof/Laws/Memory.lean ====
section
/-! SUPPORT. The laws of the display register space: read after write, and the canonical form is kept. -/

namespace Sys2Proof.Machine

theorem Memory.read_write (m : Memory) (a : Nat) (v : Byte) (b : Nat) :
    (m.write a v).read b = if b = a then some v else m.read b := by
  induction m with
  | nil => simp [Memory.write, Memory.read, eq_comm]
  | cons x m ih =>
    obtain ⟨c, u⟩ := x
    by_cases hlt : a < c
    · simp [Memory.write, Memory.read, hlt, eq_comm]
    · by_cases heq : a = c
      · subst heq
        by_cases h : b = a
        · simp [Memory.write, Memory.read, h]
        · simp [Memory.write, Memory.read, h, Ne.symm h]
      · simp only [Memory.write, hlt, heq, if_false, Memory.read, ih]
        by_cases h : b = a
        · simp [h, Ne.symm heq]
        · simp [h]

theorem Memory.read_write_same (m : Memory) (a : Nat) (v : Byte) : (m.write a v).read a = some v := by
  simp [Memory.read_write]

theorem Memory.read_write_other (m : Memory) {a b : Nat} (v : Byte) (h : b ≠ a) :
    (m.write a v).read b = m.read b := by
  simp [Memory.read_write, h]

theorem Memory.mem_write {m : Memory} {a : Nat} {v : Byte} {x : Host.Cell} (h : x ∈ m.write a v) :
    x = (a, v) ∨ x ∈ m := by
  induction m with
  | nil => simpa [Memory.write] using h
  | cons y m ih =>
    obtain ⟨c, u⟩ := y
    by_cases hlt : a < c
    · simpa [Memory.write, hlt] using h
    · by_cases heq : a = c
      · simp only [Memory.write, heq, if_false, if_true, lt_irrefl, List.mem_cons] at h ⊢
        tauto
      · simp only [Memory.write, hlt, heq, if_false, List.mem_cons] at h ⊢
        rcases h with h | h
        · exact Or.inr (Or.inl h)
        · exact (ih h).imp_right Or.inr

theorem Memory.wf_iff (m : Memory) :
    m.wf = true ↔ m.Pairwise (fun x y => x.1 < y.1) ∧ ∀ x ∈ m, x.1 < 16 := by
  simp [Memory.wf]

theorem Memory.write_wf {m : Memory} {a : Nat} {v : Byte} (hm : m.wf = true) (ha : a < 16) :
    (m.write a v).wf = true := by
  rw [Memory.wf_iff] at hm ⊢
  refine ⟨?_, fun x hx => ?_⟩
  · obtain ⟨hp, -⟩ := hm
    induction m with
    | nil => simp [Memory.write]
    | cons y m ih =>
      obtain ⟨c, u⟩ := y
      obtain ⟨hc, hp'⟩ := List.pairwise_cons.1 hp
      by_cases hlt : a < c
      · simp only [Memory.write, hlt, if_true]
        refine List.pairwise_cons.2 ⟨fun x hx => ?_, hp⟩
        rcases List.mem_cons.1 hx with rfl | hx
        · exact hlt
        · exact hlt.trans (hc x hx)
      · by_cases heq : a = c
        · subst heq
          simp only [Memory.write, lt_irrefl, if_false, if_true]
          exact List.pairwise_cons.2 ⟨hc, hp'⟩
        · simp only [Memory.write, hlt, heq, if_false]
          refine List.pairwise_cons.2 ⟨fun x hx => ?_, ih hp'⟩
          rcases Memory.mem_write hx with rfl | hx
          · exact lt_of_le_of_ne (Nat.le_of_not_lt hlt) (Ne.symm heq)
          · exact hc x hx
  · rcases Memory.mem_write hx with rfl | hx
    · exact ha
    · exact hm.2 x hx

/-! The display register space: each operation on each of its two fields, then its reads. -/

@[simp] theorem DisplaySpace.write_cells (d : DisplaySpace) (a : Nat) (v : Byte) :
    (d.write a v).cells = d.cells.write a v := rfl
@[simp] theorem DisplaySpace.write_draws (d : DisplaySpace) (a : Nat) (v : Byte) : (d.write a v).draws = d.draws := rfl
@[simp] theorem DisplaySpace.lose_cells (d : DisplaySpace) : d.lose.cells = [] := rfl
@[simp] theorem DisplaySpace.lose_draws (d : DisplaySpace) : d.lose.draws = d.draws + 1 := rfl
@[simp] theorem DisplaySpace.atPowerOn_cells : DisplaySpace.atPowerOn.cells = [] := rfl

/-- What a read gives after a write: the byte at the address written, what it gave before elsewhere (R43). -/
theorem DisplaySpace.read_write (d : DisplaySpace) (a : Nat) (v : Byte) (b : Nat) :
    (d.write a v).read b = if b = a then v else d.read b := by
  unfold DisplaySpace.read
  rw [write_cells, write_draws, Memory.read_write]
  split <;> rfl

/-- After the contents became unspecified every register holds the free value of the new draw (U4). -/
theorem DisplaySpace.read_lose (d : DisplaySpace) (a : Nat) :
    d.lose.read a = Config.unspecifiedDisplay (d.draws + 1) a := rfl

theorem DisplaySpace.write_wf {d : DisplaySpace} {a : Nat} {v : Byte} (hd : d.wf = true) (ha : a < 16) :
    (d.write a v).wf = true := Memory.write_wf hd ha

theorem DisplaySpace.lose_wf (d : DisplaySpace) : d.lose.wf = true := by simp [DisplaySpace.wf, Memory.wf]

theorem DisplaySpace.atPowerOn_wf : DisplaySpace.atPowerOn.wf = true := by decide

theorem displayAddress_lt (a : Byte) : displayAddress a < 16 := (a.extractLsb' 0 4).isLt

theorem displayAddress_eq (a : Byte) : displayAddress a = a.toNat % 16 := by simp [displayAddress]

theorem memWrite_wf {s : State} (f : Frame) (h : s.disp.wf = true) : (memWrite f s).disp.wf = true :=
  DisplaySpace.write_wf h (displayAddress_lt _)

end Sys2Proof.Machine
end

