-- ==== Sys2Proof/Laws/State.lean ====
section
/-! SUPPORT. One lemma per field of the state for each of its updates, so that no proof unfolds a record update. -/

namespace Sys2Proof.Machine

@[simp] theorem State.setMeas_cfg (s : State) (m : Measurement) :
    (s.setMeas m).cfg = s.cfg := rfl
@[simp] theorem State.setMeas_meas (s : State) (m : Measurement) :
    (s.setMeas m).meas = m := rfl
@[simp] theorem State.setMeas_drv (s : State) (m : Measurement) :
    (s.setMeas m).drv = s.drv := rfl
@[simp] theorem State.setMeas_disp (s : State) (m : Measurement) :
    (s.setMeas m).disp = s.disp := rfl
@[simp] theorem State.setMeas_inputs (s : State) (m : Measurement) :
    (s.setMeas m).inputs = s.inputs := rfl
@[simp] theorem State.setMeas_link (s : State) (m : Measurement) :
    (s.setMeas m).link = s.link := rfl
@[simp] theorem State.setMeas_responses (s : State) (m : Measurement) :
    (s.setMeas m).responses = s.responses := rfl
@[simp] theorem State.setMeas_handlerResults (s : State) (m : Measurement) :
    (s.setMeas m).handlerResults = s.handlerResults := rfl

@[simp] theorem State.setDriver_cfg (s : State) (d : Driver) :
    (s.setDriver d).cfg = s.cfg := rfl
@[simp] theorem State.setDriver_meas (s : State) (d : Driver) :
    (s.setDriver d).meas = s.meas := rfl
@[simp] theorem State.setDriver_drv (s : State) (d : Driver) :
    (s.setDriver d).drv = d := rfl
@[simp] theorem State.setDriver_disp (s : State) (d : Driver) :
    (s.setDriver d).disp = s.disp := rfl
@[simp] theorem State.setDriver_inputs (s : State) (d : Driver) :
    (s.setDriver d).inputs = s.inputs := rfl
@[simp] theorem State.setDriver_link (s : State) (d : Driver) :
    (s.setDriver d).link = s.link := rfl
@[simp] theorem State.setDriver_responses (s : State) (d : Driver) :
    (s.setDriver d).responses = s.responses := rfl
@[simp] theorem State.setDriver_handlerResults (s : State) (d : Driver) :
    (s.setDriver d).handlerResults = s.handlerResults := rfl

@[simp] theorem State.emit_cfg (s : State) (es : List LinkEvent) :
    (s.emit es).cfg = s.cfg := rfl
@[simp] theorem State.emit_meas (s : State) (es : List LinkEvent) :
    (s.emit es).meas = s.meas := rfl
@[simp] theorem State.emit_drv (s : State) (es : List LinkEvent) :
    (s.emit es).drv = s.drv := rfl
@[simp] theorem State.emit_disp (s : State) (es : List LinkEvent) :
    (s.emit es).disp = s.disp := rfl
@[simp] theorem State.emit_inputs (s : State) (es : List LinkEvent) :
    (s.emit es).inputs = s.inputs := rfl
@[simp] theorem State.emit_link (s : State) (es : List LinkEvent) :
    (s.emit es).link = s.link ++ es := rfl
@[simp] theorem State.emit_responses (s : State) (es : List LinkEvent) :
    (s.emit es).responses = s.responses := rfl
@[simp] theorem State.emit_handlerResults (s : State) (es : List LinkEvent) :
    (s.emit es).handlerResults = s.handlerResults := rfl

@[simp] theorem State.respond_cfg (s : State) (r : Result) :
    (s.respond r).cfg = s.cfg := rfl
@[simp] theorem State.respond_meas (s : State) (r : Result) :
    (s.respond r).meas = s.meas := rfl
@[simp] theorem State.respond_drv (s : State) (r : Result) :
    (s.respond r).drv = s.drv := rfl
@[simp] theorem State.respond_disp (s : State) (r : Result) :
    (s.respond r).disp = s.disp := rfl
@[simp] theorem State.respond_inputs (s : State) (r : Result) :
    (s.respond r).inputs = s.inputs := rfl
@[simp] theorem State.respond_link (s : State) (r : Result) :
    (s.respond r).link = s.link := rfl
@[simp] theorem State.respond_responses (s : State) (r : Result) :
    (s.respond r).responses = s.responses ++ [responseWord r] := rfl
@[simp] theorem State.respond_handlerResults (s : State) (r : Result) :
    (s.respond r).handlerResults = s.handlerResults := rfl

@[simp] theorem State.handlerDone_cfg (s : State) :
    (s.handlerDone).cfg = s.cfg := rfl
@[simp] theorem State.handlerDone_meas (s : State) :
    (s.handlerDone).meas = s.meas := rfl
@[simp] theorem State.handlerDone_drv (s : State) :
    (s.handlerDone).drv = s.drv := rfl
@[simp] theorem State.handlerDone_disp (s : State) :
    (s.handlerDone).disp = s.disp := rfl
@[simp] theorem State.handlerDone_inputs (s : State) :
    (s.handlerDone).inputs = s.inputs := rfl
@[simp] theorem State.handlerDone_link (s : State) :
    (s.handlerDone).link = s.link := rfl
@[simp] theorem State.handlerDone_responses (s : State) :
    (s.handlerDone).responses = s.responses := rfl
@[simp] theorem State.handlerDone_handlerResults (s : State) :
    (s.handlerDone).handlerResults = s.handlerResults ++ [okDone] := rfl

@[simp] theorem memWrite_cfg (f : Frame) (s : State) :
    (memWrite f s).cfg = s.cfg := rfl
@[simp] theorem memWrite_meas (f : Frame) (s : State) :
    (memWrite f s).meas = s.meas := rfl
@[simp] theorem memWrite_drv (f : Frame) (s : State) :
    (memWrite f s).drv = s.drv := rfl
@[simp] theorem memWrite_disp (f : Frame) (s : State) :
    (memWrite f s).disp = s.disp.write (displayAddress f.addr) f.value := rfl
@[simp] theorem memWrite_inputs (f : Frame) (s : State) :
    (memWrite f s).inputs = s.inputs := rfl
@[simp] theorem memWrite_link (f : Frame) (s : State) :
    (memWrite f s).link = s.link := rfl
@[simp] theorem memWrite_responses (f : Frame) (s : State) :
    (memWrite f s).responses = s.responses := rfl
@[simp] theorem memWrite_handlerResults (f : Frame) (s : State) :
    (memWrite f s).handlerResults = s.handlerResults := rfl

@[simp] theorem presentCommand_cfg (w : CmdWord) (s : State) :
    (presentCommand w s).cfg = s.cfg := rfl
@[simp] theorem presentCommand_meas (w : CmdWord) (s : State) :
    (presentCommand w s).meas = s.meas := rfl
@[simp] theorem presentCommand_drv (w : CmdWord) (s : State) :
    (presentCommand w s).drv = s.drv := rfl
@[simp] theorem presentCommand_disp (w : CmdWord) (s : State) :
    (presentCommand w s).disp = s.disp := rfl
@[simp] theorem presentCommand_inputs (w : CmdWord) (s : State) :
    (presentCommand w s).inputs = .cmd w :: s.inputs := rfl
@[simp] theorem presentCommand_link (w : CmdWord) (s : State) :
    (presentCommand w s).link = s.link := rfl
@[simp] theorem presentCommand_responses (w : CmdWord) (s : State) :
    (presentCommand w s).responses = s.responses := rfl
@[simp] theorem presentCommand_handlerResults (w : CmdWord) (s : State) :
    (presentCommand w s).handlerResults = s.handlerResults := rfl

@[simp] theorem driver_idle_strobe : Driver.idle.strobe = .high := rfl
@[simp] theorem driver_idle_txPhase : Driver.idle.txPhase = .idle := rfl
@[simp] theorem driver_idle_seqIdx : Driver.idle.seqIdx = 0 := rfl
@[simp] theorem driver_idle_stage : Driver.idle.stage = .free := rfl
@[simp] theorem driver_idle_frame : Driver.idle.frame = ⟨0, 0⟩ := rfl
@[simp] theorem driver_idle_queue : Driver.idle.queue = [] := rfl
@[simp] theorem driver_idle_waited : Driver.idle.waited = 0 := rfl

end Sys2Proof.Machine
end

