-- ==== Sys2Proof/Laws/Driver.lean ====
section
/-! SUPPORT. What the display driver can do: one lemma for each of its operations, one inversion lemma for a tick, and the
induction that carries a property through the ticks an operation runs through. -/

namespace Sys2Proof.Machine

/-- A tick leaves the environment's inputs, the configuration, the measurement state and the handlers' results alone. -/
structure OutsideDriver (s t : State) : Prop where
  cfg : t.cfg = s.cfg
  meas : t.meas = s.meas
  inputs : t.inputs = s.inputs
  handlerResults : t.handlerResults = s.handlerResults

theorem prepareTransaction_eq (f : Frame) (later : List Frame) (idx : BitVec 4) (s : State) :
    prepareTransaction f later idx s = { s with drv := ⟨.high, .idle, idx, .opening, f, later, 0⟩ } := rfl

theorem lowerStrobe_eq (s : State) :
    lowerStrobe s =
      { s with
        link := s.link ++ [.stb0]
        drv := { s.drv with strobe := .low, stage := .addressing } } := rfl

theorem sendAddressByte_eq (s : State) :
    sendAddressByte s =
      { s with
        link := s.link ++ [.byte s.drv.frame.addr]
        drv := { s.drv with txPhase := .b1Wait, stage := .sending, waited := 0 } } := rfl

theorem leaveLink_eq (r : Result) (s : State) :
    leaveLink r s = { s with drv := { Driver.idle with stage := .returning r } } := rfl

theorem finishDisplay_eq (r : Result) (s : State) :
    finishDisplay r s = { s with drv := .idle, responses := s.responses ++ [responseWord r] } := rfl

theorem failTransaction_eq (s : State) :
    failTransaction s =
      { s with
        link := s.link ++ [.stb1]
        disp := s.disp.lose
        drv := { Driver.idle with stage := .returning .timeout } } := rfl

theorem sendValueByte_eq (s : State) :
    sendValueByte s =
      { s with
        link := s.link ++ [.byte s.drv.frame.value]
        drv := { s.drv with txPhase := .b2Wait, waited := 0 } } := rfl

theorem countTick_eq (s : State) :
    countTick s = { s with drv := { s.drv with waited := s.drv.waited + 1 } } := rfl

theorem commitTransaction_last {s : State} (h : s.drv.queue = []) :
    commitTransaction s =
      { s with
        link := s.link ++ [.stb1]
        disp := s.disp.write (displayAddress s.drv.frame.addr) s.drv.frame.value
        drv := { Driver.idle with stage := .returning okDone } } := by
  unfold commitTransaction; rw [h]; rfl

theorem commitTransaction_next {s : State} {f : Frame} {later : List Frame} (h : s.drv.queue = f :: later) :
    commitTransaction s =
      { s with
        link := s.link ++ [.stb1]
        disp := s.disp.write (displayAddress s.drv.frame.addr) s.drv.frame.value
        drv := ⟨.high, .idle, s.drv.seqIdx + 1, .opening, f, later, 0⟩ } := by
  unfold commitTransaction; rw [h]; rfl

/-- Committing reads neither the phase nor the time spent in it. -/
theorem commitTransaction_setPhase (s : State) (p : TxPhase) (n : Nat) :
    commitTransaction (s.setDriver { s.drv with txPhase := p, waited := n }) = commitTransaction s := by
  unfold commitTransaction
  simp only [State.setDriver_drv]
  cases s.drv.queue <;> rfl

/-- Everything one tick can do within a transaction (R171 to R174). -/
theorem transactionTick_cases (d : Bool) (s : State) :
    (s.drv.txPhase = .idle ∧ transactionTick d s = s) ∨
    ((s.drv.txPhase = .b1Wait ∨ s.drv.txPhase = .b2Wait) ∧ d = false ∧ s.drv.waited + 1 < s.cfg.tTimeout ∧
      transactionTick d s = countTick s) ∨
    ((s.drv.txPhase = .b1Wait ∨ s.drv.txPhase = .b2Wait) ∧ d = false ∧ s.cfg.tTimeout ≤ s.drv.waited + 1 ∧
      transactionTick d s = failTransaction s) ∨
    (s.drv.txPhase = .b1Wait ∧ d = true ∧ 0 < s.cfg.tByteGap ∧
      transactionTick d s = s.setDriver { s.drv with txPhase := .b1Gap, waited := 0 }) ∨
    (s.drv.txPhase = .b2Wait ∧ d = true ∧ 0 < s.cfg.tByteGap ∧
      transactionTick d s = s.setDriver { s.drv with txPhase := .b2Gap, waited := 0 }) ∨
    ((s.drv.txPhase = .b1Gap ∨ s.drv.txPhase = .b2Gap) ∧ s.drv.waited + 1 < s.cfg.tByteGap ∧
      transactionTick d s = countTick s) ∨
    (((s.drv.txPhase = .b1Wait ∧ d = true ∧ s.cfg.tByteGap = 0) ∨
        (s.drv.txPhase = .b1Gap ∧ s.cfg.tByteGap ≤ s.drv.waited + 1)) ∧
      transactionTick d s = sendValueByte s) ∨
    (((s.drv.txPhase = .b2Wait ∧ d = true ∧ s.cfg.tByteGap = 0) ∨
        (s.drv.txPhase = .b2Gap ∧ s.cfg.tByteGap ≤ s.drv.waited + 1)) ∧
      transactionTick d s = commitTransaction s) := by
  rcases hp : s.drv.txPhase <;> cases d
  all_goals simp only [transactionTick, hp, if_true, if_false, Bool.false_eq_true, reduceCtorEq, true_and, false_and, and_false,
    or_false, false_or, or_true, and_true]
  · unfold pollUnanswered; split <;> simp <;> omega
  · unfold firstByteDone leaveFirstGap
    rcases Nat.eq_zero_or_pos s.cfg.tByteGap with h | h
    · simp [h, sendValueByte_eq]
    · simp [h]
  · unfold leaveFirstGap
    by_cases h : s.drv.waited + 1 < s.cfg.tByteGap
    · simp [countTick, h]
    · simp [countTick, h, sendValueByte_eq]; omega
  · unfold leaveFirstGap
    by_cases h : s.drv.waited + 1 < s.cfg.tByteGap
    · simp [countTick, h]
    · simp [countTick, h, sendValueByte_eq]; omega
  · unfold pollUnanswered; split <;> simp <;> omega
  · unfold secondByteDone leaveSecondGap
    rcases Nat.eq_zero_or_pos s.cfg.tByteGap with h | h
    · simp [h, commitTransaction_setPhase]
    · simp [h]
  · unfold leaveSecondGap
    have hc := commitTransaction_setPhase s s.drv.txPhase (s.drv.waited + 1)
    by_cases h : s.drv.waited + 1 < s.cfg.tByteGap
    · simp [countTick, h]
    · simp only [countTick] at *
      simp [h, hc]; omega
  · unfold leaveSecondGap
    have hc := commitTransaction_setPhase s s.drv.txPhase (s.drv.waited + 1)
    by_cases h : s.drv.waited + 1 < s.cfg.tByteGap
    · simp [countTick, h]
    · simp only [countTick] at *
      simp [h, hc]; omega

/-- Everything one move of the driver can do, by where the operation stands (R47, R171). -/
theorem driverTick_cases (d : Bool) (s : State) :
    (s.drv.stage = .free ∧ driverTick d s = s) ∨
    (s.drv.stage = .opening ∧ driverTick d s = lowerStrobe s) ∨
    (s.drv.stage = .addressing ∧ driverTick d s = sendAddressByte s) ∨
    (s.drv.stage = .sending ∧ driverTick d s = transactionTick d s) ∨
    (∃ r, s.drv.stage = .returning r ∧ driverTick d s = finishDisplay r s) := by
  rcases h : s.drv.stage with _ | _ | _ | _ | r <;> simp [driverTick, h]

/-- What a move of the driver changes: one of its events, its registers, the display registers, at most one response. -/
structure DriverMove (s t : State) : Prop extends OutsideDriver s t where
  link : t.link = s.link ∨ ∃ e, t.link = s.link ++ [e]
  responses : t.responses = s.responses ∨ ∃ w, t.responses = s.responses ++ [w]

/-- Committing a transaction, either way it goes on. -/
theorem commitTransaction_move (s : State) : DriverMove s (commitTransaction s) := by
  rcases h : s.drv.queue with _ | ⟨f, later⟩
  · rw [commitTransaction_last h]; exact ⟨⟨rfl, rfl, rfl, rfl⟩, .inr ⟨_, rfl⟩, .inl rfl⟩
  · rw [commitTransaction_next h]; exact ⟨⟨rfl, rfl, rfl, rfl⟩, .inr ⟨_, rfl⟩, .inl rfl⟩

theorem transactionTick_move (d : Bool) (s : State) : DriverMove s (transactionTick d s) := by
  obtain ⟨-, h⟩ | ⟨-, -, -, h⟩ | ⟨-, -, -, h⟩ | ⟨-, -, -, h⟩ | ⟨-, -, -, h⟩ | ⟨-, -, h⟩ | ⟨-, h⟩ | ⟨-, h⟩ :=
    transactionTick_cases d s <;> rw [h]
  · exact ⟨⟨rfl, rfl, rfl, rfl⟩, .inl rfl, .inl rfl⟩
  · exact ⟨⟨rfl, rfl, rfl, rfl⟩, .inl rfl, .inl rfl⟩
  · exact ⟨⟨rfl, rfl, rfl, rfl⟩, .inr ⟨_, rfl⟩, .inl rfl⟩
  · exact ⟨⟨rfl, rfl, rfl, rfl⟩, .inl rfl, .inl rfl⟩
  · exact ⟨⟨rfl, rfl, rfl, rfl⟩, .inl rfl, .inl rfl⟩
  · exact ⟨⟨rfl, rfl, rfl, rfl⟩, .inl rfl, .inl rfl⟩
  · exact ⟨⟨rfl, rfl, rfl, rfl⟩, .inr ⟨_, rfl⟩, .inl rfl⟩
  · exact commitTransaction_move s

theorem driverTick_move (d : Bool) (s : State) : DriverMove s (driverTick d s) := by
  obtain ⟨-, h⟩ | ⟨-, h⟩ | ⟨-, h⟩ | ⟨-, h⟩ | ⟨r, -, h⟩ := driverTick_cases d s <;> rw [h]
  · exact ⟨⟨rfl, rfl, rfl, rfl⟩, .inl rfl, .inl rfl⟩
  · exact ⟨⟨rfl, rfl, rfl, rfl⟩, .inr ⟨_, rfl⟩, .inl rfl⟩
  · exact ⟨⟨rfl, rfl, rfl, rfl⟩, .inr ⟨_, rfl⟩, .inl rfl⟩
  · exact transactionTick_move d s
  · exact ⟨⟨rfl, rfl, rfl, rfl⟩, .inl rfl, .inr ⟨_, rfl⟩⟩

theorem driverTick_outside (d : Bool) (s : State) : OutsideDriver s (driverTick d s) := (driverTick_move d s).toOutsideDriver

/-- A property that every tick keeps, and that does not look at the inputs, holds after a display operation has run through
the ticks presented next. -/
theorem driveDisplay_induction {P : State → Prop} (hi : ∀ s ins, P s → P { s with inputs := ins })
    (ht : ∀ d s, P s → P (driverTick d s)) : ∀ ins s, P s → P (driveDisplay ins s)
  | [], s, h => hi s [] h
  | .cmd w :: rest, s, h => hi s (.cmd w :: rest) h
  | .rst :: rest, s, h => hi s (.rst :: rest) h
  | .tick d :: rest, s, h => by
    unfold driveDisplay
    split
    · exact hi s _ h
    · exact driveDisplay_induction hi ht rest _ (ht d s h)

/-- An idle driver uses no input. -/
theorem driveDisplay_idle {s : State} (h : s.drv.stage = .free) (ins : List Input) :
    driveDisplay ins s = { s with inputs := ins } := by
  rcases ins with _ | ⟨x, rest⟩
  · rfl
  · cases x <;> simp [driveDisplay, h]

/-- A busy driver takes the tick presented next. -/
theorem driveDisplay_busy {s : State} (h : s.drv.stage ≠ .free) (d : Bool) (rest : List Input) :
    driveDisplay (.tick d :: rest) s = driveDisplay rest (driverTick d s) := by
  simp [driveDisplay, h]

theorem driveDisplay_cfg (ins : List Input) (s : State) : (driveDisplay ins s).cfg = s.cfg :=
  driveDisplay_induction (P := fun t => t.cfg = s.cfg) (fun _ _ h => h)
    (fun d t h => (driverTick_outside d t).cfg.trans h) ins s rfl

theorem driveDisplay_meas (ins : List Input) (s : State) : (driveDisplay ins s).meas = s.meas :=
  driveDisplay_induction (P := fun t => t.meas = s.meas) (fun _ _ h => h)
    (fun d t h => (driverTick_outside d t).meas.trans h) ins s rfl

theorem driveDisplay_handlerResults (ins : List Input) (s : State) :
    (driveDisplay ins s).handlerResults = s.handlerResults :=
  driveDisplay_induction (P := fun t => t.handlerResults = s.handlerResults) (fun _ _ h => h)
    (fun d t h => (driverTick_outside d t).handlerResults.trans h) ins s rfl

/-- What starting a sequence of transactions gives: nothing to send returns Ok at once (R176, R180, R184). -/
theorem startSequence_nil (s : State) : startSequence [] s = s.respond okDone := rfl

theorem startSequence_cons (f : Frame) (later : List Frame) (s : State) :
    startSequence (f :: later) s = driveDisplay s.inputs (prepareTransaction f later 1 s) := rfl

/-- A property that a prepared transaction, an Ok response and every tick keep holds after a sequence was started. -/
theorem startSequence_induction {P : State → Prop} (hi : ∀ s ins, P s → P { s with inputs := ins })
    (ht : ∀ d s, P s → P (driverTick d s)) {frames : List Frame} {s : State} (hok : P (s.respond okDone))
    (hopen : ∀ f later, frames = f :: later → P (prepareTransaction f later 1 s)) : P (startSequence frames s) := by
  rcases frames with _ | ⟨f, later⟩
  · exact hok
  · exact driveDisplay_induction hi ht _ _ (hopen f later rfl)

end Sys2Proof.Machine
end

