-- ==== Sys2Proof/Laws/Encoding.lean ====
section
/-! SUPPORT. The fields of a command word as numbers, and the two directions between a word and its fields (R61). -/

namespace Sys2Proof

theorem append_toNat {m n : Nat} (x : BitVec m) (y : BitVec n) : (x ++ y).toNat = x.toNat * 2 ^ n + y.toNat := by
  rw [BitVec.toNat_append, Nat.shiftLeft_eq, Nat.mul_comm, Nat.two_pow_add_eq_or_of_lt y.isLt]

theorem extract_toNat {n : Nat} (w : BitVec n) (a b : Nat) : (w.extractLsb' a b).toNat = w.toNat / 2 ^ a % 2 ^ b := by
  simp [BitVec.extractLsb'_toNat, Nat.shiftRight_eq_div_pow]

theorem commandWord_toNat (op aux : BitVec 4) (arg : BitVec 32) :
    (commandWord op aux arg).toNat = op.toNat * 2 ^ 36 + aux.toNat * 2 ^ 32 + arg.toNat := by
  have h1 := append_toNat (op ++ aux) arg
  have h2 := append_toNat op aux
  have h3 : (commandWord op aux arg).toNat = ((op ++ aux) ++ arg).toNat := rfl
  omega

theorem opField_toNat (w : CmdWord) : (opField w).toNat = w.toNat / 2 ^ 36 := by
  have h := extract_toNat w 36 4
  have := w.isLt
  unfold opField; omega

theorem auxField_toNat (w : CmdWord) : (auxField w).toNat = w.toNat / 2 ^ 32 % 16 := extract_toNat w 32 4

theorem argField_toNat (w : CmdWord) : (argField w).toNat = w.toNat % 2 ^ 32 := by
  have h := extract_toNat w 0 32
  unfold argField; omega

@[simp] theorem opField_commandWord (op aux : BitVec 4) (arg : BitVec 32) : opField (commandWord op aux arg) = op := by
  apply BitVec.eq_of_toNat_eq; rw [opField_toNat, commandWord_toNat]; omega

@[simp] theorem auxField_commandWord (op aux : BitVec 4) (arg : BitVec 32) :
    auxField (commandWord op aux arg) = aux := by
  apply BitVec.eq_of_toNat_eq; rw [auxField_toNat, commandWord_toNat]; omega

@[simp] theorem argField_commandWord (op aux : BitVec 4) (arg : BitVec 32) :
    argField (commandWord op aux arg) = arg := by
  apply BitVec.eq_of_toNat_eq; rw [argField_toNat, commandWord_toNat]; omega

/-- A command word is its three fields. -/
theorem commandWord_fields (w : CmdWord) : commandWord (opField w) (auxField w) (argField w) = w := by
  apply BitVec.eq_of_toNat_eq; rw [commandWord_toNat, opField_toNat, auxField_toNat, argField_toNat]; omega

/-- When the unused bits are accepted (R67). -/
theorem whenUnusedZero_legal_iff {n : Nat} {w : CmdWord} {i j : Instr} :
    whenUnusedZero n w i = .legal j ↔ (auxField w = 0 ∧ (argField w).toNat < 2 ^ n) ∧ i = j := by
  unfold whenUnusedZero unusedZero; split <;> simp_all

/-- The code of the mode a code names (R68). -/
theorem modeCode_of_modeOfCode {m : BitVec 3} {x : Mode} (h : modeOfCode m = some x) : modeCode x = m := by
  revert h; revert m; cases x <;> decide

theorem modeOfCode_modeCode (x : Mode) : modeOfCode (modeCode x) = some x := by cases x <;> rfl

end Sys2Proof
end

