-- ==== Sys2Proof/Laws/Ops.lean ====
section
/-! SUPPORT. What the shared operations outside the driver answer: readiness of the command port, the averager over the
naturals, the peak tracker by its four cases, the widths of the operands, and one inversion lemma for `exec` and for a step. -/

namespace Sys2Proof.Machine

/-- A main-loop operation is accepted exactly when the driver is idle (R217). -/
theorem whenReady_next_iff (s s' t : State) : whenReady s s' = .next t ↔ s.drv.stage = .free ∧ s' = t := by
  unfold whenReady; split <;> simp_all

theorem whenReady_of_idle {s : State} (h : s.drv.stage = .free) (s' : State) : whenReady s s' = .next s' := by
  simp [whenReady, h]

theorem whenReady_of_busy {s : State} (h : s.drv.stage ≠ .free) (s' : State) :
    whenReady s s' = .refused .commandNotReady := by
  simp [whenReady, h]

/-- The averager's formula with shifts written as division and multiplication (R4). -/
theorem emaNat_eq (a s k : Nat) : emaNat a s k = s / 2 ^ k + a / 2 ^ k * (2 ^ k - 1) := by
  simp [emaNat, Nat.shiftRight_eq_div_pow, Nat.shiftLeft_eq]

theorem zext32_toNat {n : Nat} (h : n ≤ 32) (x : BitVec n) : (zext32 x).toNat = x.toNat := by
  simp only [zext32, BitVec.toNat_setWidth]
  exact Nat.mod_eq_of_lt (x.isLt.trans_le (Nat.pow_le_pow_right (by norm_num) h))

theorem rectified_toNat (b x : BitVec 12) :
    (rectified b x).toNat = if b.toNat ≤ x.toNat then x.toNat - b.toNat else b.toNat - x.toNat := by
  unfold rectified
  simp only [BitVec.le_def]
  split
  · rw [BitVec.toNat_sub_of_le (by rwa [BitVec.le_def])]
  · rw [BitVec.toNat_sub_of_le (by rw [BitVec.le_def]; omega)]

theorem sideOf_eq_above_iff (b x : BitVec 12) : sideOf b x = .above ↔ b.toNat ≤ x.toNat := by
  unfold sideOf; simp only [BitVec.le_def]; split <;> simp_all

theorem sideOf_eq_below_iff (b x : BitVec 12) : sideOf b x = .below ↔ x.toNat < b.toNat := by
  unfold sideOf; simp only [BitVec.le_def]; split <;> simp_all

theorem risingCrossing_iff (b x : BitVec 12) (p : Polarity) :
    risingCrossing b x p = true ↔ b.toNat ≤ x.toNat ∧ p = .below := by
  simp [risingCrossing, sideOf_eq_above_iff]

theorem fallingCrossing_iff (b x : BitVec 12) (p : Polarity) :
    fallingCrossing b x p = true ↔ x.toNat < b.toNat ∧ p = .above := by
  simp [fallingCrossing, sideOf_eq_below_iff]

theorem decimalDigit_lt (value : BitVec 32) (j : Nat) : decimalDigit value j < 10 := Nat.mod_lt _ (by norm_num)

theorem digitFrames_length (value : BitVec 32) (dp : BitVec 4) : (digitFrames value dp).length = 8 := by
  simp [digitFrames]

theorem errorFrames_length (c : Cfg) : (errorFrames c).length = 4 := by simp [errorFrames]

theorem setupFrames_length (c : Cfg) : (setupFrames c).length = min c.setupLen.toNat 5 := by simp [setupFrames]

/-- A legal configuration, field by field (R2). -/
theorem cfgLegal_iff (c : Cfg) :
    cfgLegal c = true ↔
      1 ≤ c.avgFMin.toNat ∧ c.avgFMin.toNat ≤ c.avgFMax.toNat ∧ c.nSettle.toNat ≤ 254 ∧ c.dpPos.dc = 4 ∧
      c.dpPos.frequency.toNat ≤ 8 ∧ c.dpPos.zeroToPeak.toNat ≤ 8 ∧ c.dpPos.peakToPeak.toNat ≤ 8 ∧
      c.dpPos.pseudoRms.toNat ≤ 8 ∧ 1 ≤ c.tTimeout ∧ (c.setupLen = 4 ∨ c.setupLen = 5) := by
  simp [cfgLegal, and_assoc]

/-- Everything an operation that answers a next state does, as one update of the state. -/
theorem exec_cases {i : Instr} {s t : State} (h : exec i s = .next t) :
    (∃ x, i = .sample x ∧ t = (s.setMeas (sampleStep s.cfg x s.meas)).handlerDone) ∨
    (i = .overflow ∧ t = (s.setMeas (overflowStep s.meas)).handlerDone) ∨
    (∃ c, i = .capture c ∧ t = (s.setMeas (captureStep s.cfg c s.meas)).handlerDone) ∨
    (∃ m, i = .mode m ∧ s.drv.stage = .free ∧ t = (s.setMeas (enterMode m)).respond okDone) ∨
    (i = .render ∧ s.drv.stage = .free ∧ t = s.respond (renderResult s.cfg s.meas)) ∨
    (∃ a v, i = .transmit a v ∧ s.drv.stage = .free ∧ t = startTransmit ⟨a, v⟩ s) ∨
    (∃ value dp, i = .digits value dp ∧ legalPosition dp = true ∧ s.drv.stage = .free ∧
      t = startSequence (digitFrames value dp) s) ∨
    (∃ value dp, i = .digits value dp ∧ legalPosition dp = false ∧ t = s.respond .illegal) ∨
    (i = .errdisp ∧ s.drv.stage = .free ∧ t = startSequence (errorFrames s.cfg) s) ∨
    (i = .setup ∧ s.drv.stage = .free ∧ t = startSequence (setupFrames s.cfg) s) := by
  cases i with
  | sample x => simp_all [exec, execSample]
  | overflow => simp_all [exec, execOverflow]
  | capture c => simp_all [exec, execCapture]
  | mode m => simp_all [exec, execMode, whenReady_next_iff]
  | render => simp_all [exec, execRender, whenReady_next_iff]
  | transmit a v => simp_all [exec, execTransmit, whenReady_next_iff]
  | digits value dp =>
    simp only [exec, execDigits] at h
    split at h
    · simp_all [whenReady_next_iff]
    · simp_all
  | errdisp => simp_all [exec, execErrdisp, whenReady_next_iff]
  | setup => simp_all [exec, execSetup, whenReady_next_iff]

/-- Everything a step that answers a next state does (R48, R60, R67, R240, R241). -/
theorem step_cases {s t : State} (h : step s = .next t) :
    cfgLegal s.cfg = true ∧
    ((s.inputs = [] ∧ t = s) ∨
      (∃ d rest, s.inputs = .tick d :: rest ∧ t = driverTick d { s with inputs := rest }) ∨
      (∃ rest, s.inputs = .rst :: rest ∧ t = applyReset { s with inputs := rest }) ∨
      (∃ w i rest, s.inputs = .cmd w :: rest ∧ decode w = .legal i ∧ exec i { s with inputs := rest } = .next t) ∨
      (∃ w e rest, s.inputs = .cmd w :: rest ∧ decode w = .illegal e ∧
        t = State.respond { s with inputs := rest } .illegal)) := by
  unfold step stepInputs at h
  split at h
  · refine ⟨by assumption, ?_⟩
    rcases hi : s.inputs with _ | ⟨x, rest⟩
    · left; simp_all
    · right
      rw [hi] at h
      cases x with
      | tick d => left; exact ⟨d, rest, rfl, by simpa [acceptInput, eq_comm] using h⟩
      | rst => right; left; exact ⟨rest, rfl, by simpa [acceptInput, eq_comm] using h⟩
      | cmd w =>
        right; right
        simp only [acceptInput, acceptCommand] at h
        rcases hd : decode w with i | e
        · rw [hd] at h; exact Or.inl ⟨w, i, rest, rfl, hd, h⟩
        · rw [hd] at h; exact Or.inr ⟨w, e, rest, rfl, hd, by simpa [eq_comm] using h⟩
  · simp at h

/-- The peak tracker by its four cases (R123 to R127). -/
theorem peakStep_rising {c : Cfg} {x : BitVec 12} {m : Measurement} (hx : c.baseline ≤ x) (hp : m.polarity = .below) :
    peakStep c x m = { raiseMaximum x (foldMinimum c m) with polarity := .above } := by
  have : risingCrossing c.baseline x m.polarity = true := (risingCrossing_iff ..).2 ⟨hx, hp⟩
  simp [peakStep, hx, this]

theorem peakStep_stay_above {c : Cfg} {x : BitVec 12} {m : Measurement} (hx : c.baseline ≤ x)
    (hp : m.polarity = .above) : peakStep c x m = { raiseMaximum x m with polarity := .above } := by
  have : risingCrossing c.baseline x m.polarity = false := by
    rw [Bool.eq_false_iff, Ne, risingCrossing_iff]; simp [hp]
  simp [peakStep, hx, this]

theorem peakStep_falling {c : Cfg} {x : BitVec 12} {m : Measurement} (hx : ¬c.baseline ≤ x) (hp : m.polarity = .above) :
    peakStep c x m = { lowerMinimum x (foldMaximum c m) with polarity := .below } := by
  have : fallingCrossing c.baseline x m.polarity = true :=
    (fallingCrossing_iff ..).2 ⟨by rw [BitVec.le_def] at hx; omega, hp⟩
  simp [peakStep, hx, this]

theorem peakStep_stay_below {c : Cfg} {x : BitVec 12} {m : Measurement} (hx : ¬c.baseline ≤ x)
    (hp : m.polarity = .below) : peakStep c x m = { lowerMinimum x m with polarity := .below } := by
  have : fallingCrossing c.baseline x m.polarity = false := by
    rw [Bool.eq_false_iff, Ne, fallingCrossing_iff]; simp [hp]
  simp [peakStep, hx, this]

end Sys2Proof.Machine
end

