-- ==== Sys2Proof/Laws/Measurement.lean ====
section
/-! SUPPORT. What the measurement operations can do: one lemma for each part of the peak tracker, what each sampling path and
timer event leaves unchanged, and the measurement state after `exec`. -/

namespace Sys2Proof.Machine

theorem dcStep_eq (c : Cfg) (x : BitVec 12) (m : Measurement) :
    dcStep c x m = { m with average := ema m.average (zext32 x) c.shiftDc } := rfl

theorem rectStep_eq (c : Cfg) (x : BitVec 12) (m : Measurement) :
    rectStep c x m = { m with rectAverage := ema m.rectAverage (zext32 (rectified c.baseline x)) c.shiftRect } := rfl

theorem foldMinimum_eq (c : Cfg) (m : Measurement) :
    foldMinimum c m =
      { m with
        minAverage := ema m.minAverage (zext32 m.currentMinSample) c.shiftPeak
        currentMinSample := c.baseline } := rfl

theorem foldMaximum_eq (c : Cfg) (m : Measurement) :
    foldMaximum c m =
      { m with
        maxAverage := ema m.maxAverage (zext32 m.currentMaxSample) c.shiftPeak
        currentMaxSample := c.baseline } := rfl

/-- The higher extremum as one value (R126). -/
theorem raiseMaximum_eq (x : BitVec 12) (m : Measurement) :
    raiseMaximum x m =
      { m with currentMaxSample := if m.currentMaxSample < x then x else m.currentMaxSample } := by
  unfold raiseMaximum; split <;> rfl

/-- The lower extremum as one value (R126). -/
theorem lowerMinimum_eq (x : BitVec 12) (m : Measurement) :
    lowerMinimum x m =
      { m with currentMinSample := if x < m.currentMinSample then x else m.currentMinSample } := by
  unfold lowerMinimum; split <;> rfl

/-- What the peak tracker does not write (R123). -/
structure OutsidePeak (m n : Measurement) : Prop where
  mode : n.mode = m.mode
  average : n.average = m.average
  rectAverage : n.rectAverage = m.rectAverage
  lastCapture : n.lastCapture = m.lastCapture
  overflowCount : n.overflowCount = m.overflowCount
  captureCount : n.captureCount = m.captureCount

theorem peakStep_outside (c : Cfg) (x : BitVec 12) (m : Measurement) : OutsidePeak m (peakStep c x m) := by
  by_cases hx : c.baseline ≤ x <;> rcases hp : m.polarity
  · rw [peakStep_rising hx hp, raiseMaximum_eq]; exact ⟨rfl, rfl, rfl, rfl, rfl, rfl⟩
  · rw [peakStep_stay_above hx hp, raiseMaximum_eq]; exact ⟨rfl, rfl, rfl, rfl, rfl, rfl⟩
  · rw [peakStep_stay_below hx hp, lowerMinimum_eq]; exact ⟨rfl, rfl, rfl, rfl, rfl, rfl⟩
  · rw [peakStep_falling hx hp, lowerMinimum_eq]; exact ⟨rfl, rfl, rfl, rfl, rfl, rfl⟩

/-- After a sample of a peak mode, the state says which side of the baseline it was on (R127). -/
theorem peakStep_polarity (c : Cfg) (x : BitVec 12) (m : Measurement) :
    (peakStep c x m).polarity = sideOf c.baseline x := by
  unfold peakStep sideOf; split <;> rfl

/-- A sample changes the mode in no mode (R120). -/
theorem sampleStep_mode (c : Cfg) (x : BitVec 12) (m : Measurement) : (sampleStep c x m).mode = m.mode := by
  rcases hm : m.mode <;> simp only [sampleStep, hm]
  · exact hm
  · exact (peakStep_outside c x m).mode.trans hm
  · exact (peakStep_outside c x m).mode.trans hm
  · exact hm

/-- In the two peak modes a sample is a step of the peak tracker (R120). -/
theorem sampleStep_peak {m : Measurement} (h : m.mode = .zeroToPeak ∨ m.mode = .peakToPeak) (c : Cfg) (x : BitVec 12) :
    sampleStep c x m = peakStep c x m := by
  rcases h with h | h <;> simp [sampleStep, h]

/-- Starting a sequence of transactions leaves the measurement state alone (R49). -/
theorem startSequence_meas (frames : List Frame) (s : State) : (startSequence frames s).meas = s.meas := by
  rcases frames with _ | ⟨f, later⟩
  · rfl
  · rw [startSequence_cons, driveDisplay_meas]; rfl

theorem startTransmit_meas (f : Frame) (s : State) : (startTransmit f s).meas = s.meas := by
  unfold startTransmit; rw [driveDisplay_meas]; rfl

/-- The measurement state an operation leaves, by its instruction. -/
def measurementAfter (c : Cfg) (m : Measurement) : Instr → Measurement
  | .sample x => sampleStep c x m
  | .overflow => overflowStep m
  | .capture n => captureStep c n m
  | .mode e => enterMode e
  | .render => m
  | .transmit _ _ => m
  | .digits _ _ => m
  | .errdisp => m
  | .setup => m

theorem exec_meas {i : Instr} {s t : State} (h : exec i s = .next t) : t.meas = measurementAfter s.cfg s.meas i := by
  rcases exec_cases h with ⟨x, rfl, rfl⟩ | ⟨rfl, rfl⟩ | ⟨c, rfl, rfl⟩ | ⟨m, rfl, -, rfl⟩ | ⟨rfl, -, rfl⟩ |
    ⟨a, v, rfl, -, rfl⟩ | ⟨_, _, rfl, -, -, rfl⟩ | ⟨_, _, rfl, -, rfl⟩ | ⟨rfl, -, rfl⟩ | ⟨rfl, -, rfl⟩
  · rfl
  · rfl
  · rfl
  · rfl
  · rfl
  · exact startTransmit_meas _ _
  · exact startSequence_meas _ _
  · rfl
  · exact startSequence_meas _ _
  · exact startSequence_meas _ _

end Sys2Proof.Machine
end

