-- ==== Sys2Proof/Laws/PerInstr.lean ====
section
/-! SUPPORT. Statements for all instructions, made per instruction: the operation code of an encoded instruction is the one
of its row (R61, R62), whatever its operands. -/

namespace Sys2Proof.Laws

/-- The `op` field of the instruction's command word is the operation code of its row of R62. -/
def EncodeOpcode.Statement (i : Instr) : Prop := opField (encode i) = opcode i

theorem EncodeOpcode.sample (s : BitVec 12) : EncodeOpcode.Statement (.sample s) := opField_commandWord _ _ _

theorem EncodeOpcode.overflow : EncodeOpcode.Statement .overflow := opField_commandWord _ _ _

theorem EncodeOpcode.capture (c : BitVec 16) : EncodeOpcode.Statement (.capture c) := opField_commandWord _ _ _

theorem EncodeOpcode.mode (m : Mode) : EncodeOpcode.Statement (.mode m) := opField_commandWord _ _ _

theorem EncodeOpcode.render : EncodeOpcode.Statement .render := opField_commandWord _ _ _

theorem EncodeOpcode.transmit (a v : Byte) : EncodeOpcode.Statement (.transmit a v) := opField_commandWord _ _ _

theorem EncodeOpcode.digits (value : BitVec 32) (dp : BitVec 4) : EncodeOpcode.Statement (.digits value dp) :=
  opField_commandWord _ _ _

theorem EncodeOpcode.errdisp : EncodeOpcode.Statement .errdisp := opField_commandWord _ _ _

theorem EncodeOpcode.setup : EncodeOpcode.Statement .setup := opField_commandWord _ _ _

end Sys2Proof.Laws
end

