-- ==== Sys2Proof/Laws/Script.lean ====
section
/-! SUPPORT. What the driver does with the ticks of one answer of the environment: a `done` on each byte, a `never`, and how
the answers of a script line split into transactions. -/

namespace Sys2Proof.Machine

/-- The delay after the address byte, when its ticks are presented (R173). -/
theorem driveDisplay_firstGap (k : Nat) : ∀ (s : State) (rest : List Input), s.drv.stage = .sending →
    s.drv.txPhase = .b1Gap →
    s.drv.waited + k = s.cfg.tByteGap → 0 < k →
    driveDisplay (List.replicate k (.tick true) ++ rest) s = driveDisplay rest (sendValueByte s) := by
  induction k with
  | zero => intro _ _ _ _ _ h; omega
  | succ k ih =>
    intro s rest hs hp hk _
    rw [List.replicate_succ, List.cons_append, driveDisplay_busy (by simp [hs])]
    have ht : driverTick true s = leaveFirstGap (countTick s) := by simp [driverTick, transactionTick, hs, hp]
    rw [ht]
    unfold leaveFirstGap
    rcases Nat.eq_zero_or_pos k with h0 | h0
    · subst h0
      rw [if_neg (by simp [countTick]; omega)]
      rfl
    · rw [if_pos (by simp [countTick]; omega),
        ih (countTick s) rest (by simp [countTick, hs]) (by simp [countTick, hp]) (by simp [countTick]; omega) h0]
      rfl

/-- The delay after the value byte, when its ticks are presented (R173). -/
theorem driveDisplay_secondGap (k : Nat) : ∀ (s : State) (rest : List Input), s.drv.stage = .sending →
    s.drv.txPhase = .b2Gap →
    s.drv.waited + k = s.cfg.tByteGap → 0 < k →
    driveDisplay (List.replicate k (.tick true) ++ rest) s = driveDisplay rest (commitTransaction s) := by
  induction k with
  | zero => intro _ _ _ _ _ h; omega
  | succ k ih =>
    intro s rest hs hp hk _
    rw [List.replicate_succ, List.cons_append, driveDisplay_busy (by simp [hs])]
    have ht : driverTick true s = leaveSecondGap (countTick s) := by simp [driverTick, transactionTick, hs, hp]
    have hc := commitTransaction_setPhase s s.drv.txPhase (s.drv.waited + 1)
    rw [ht]
    unfold leaveSecondGap
    rcases Nat.eq_zero_or_pos k with h0 | h0
    · subst h0
      rw [if_neg (by simp [countTick]; omega)]
      exact congrArg _ hc
    · rw [if_pos (by simp [countTick]; omega),
        ih (countTick s) rest (by simp [countTick, hs]) (by simp [countTick, hp]) (by simp [countTick]; omega) h0]
      exact congrArg _ hc

/-- One more unanswered poll before the flag is seen. -/
theorem answerInputs_done_succ (c : Cfg) (late : Nat) :
    answerInputs c (.done (late + 1)) = .tick false :: answerInputs c (.done late) := by
  simp [answerInputs, List.replicate_succ]

/-- A `done` on the address byte: the value byte is issued next (R171 to R173). -/
theorem driveDisplay_firstDone (late : Nat) : ∀ (s : State) (rest : List Input), s.drv.stage = .sending →
    s.drv.txPhase = .b1Wait →
    s.drv.waited + late < s.cfg.tTimeout →
    driveDisplay (answerInputs s.cfg (.done late) ++ rest) s = driveDisplay rest (sendValueByte s) := by
  induction late with
  | zero =>
    intro s rest hs hp _
    simp only [answerInputs, List.replicate_zero, List.nil_append, List.cons_append]
    rw [driveDisplay_busy (by simp [hs])]
    have ht : driverTick true s = firstByteDone s := by simp [driverTick, transactionTick, hs, hp]
    rw [ht]; unfold firstByteDone leaveFirstGap
    rcases Nat.eq_zero_or_pos s.cfg.tByteGap with h0 | h0
    · simp [h0, sendValueByte]; rfl
    · rw [if_pos (by simpa using h0), driveDisplay_firstGap _ (s.setDriver { s.drv with txPhase := .b1Gap, waited := 0 }) _ hs rfl
        (by simp) h0]
      rfl
  | succ late ih =>
    intro s rest hs hp hw
    rw [answerInputs_done_succ, List.cons_append, driveDisplay_busy (by simp [hs])]
    have ht : driverTick false s = countTick s := by
      simp [driverTick, transactionTick, hs, hp, pollUnanswered, show s.drv.waited + 1 < s.cfg.tTimeout by omega]
    have hn := ih (countTick s) rest (by simp [countTick, hs]) (by simp [countTick, hp]) (by simp [countTick]; omega)
    rw [show (countTick s).cfg = s.cfg from rfl] at hn
    rw [ht, hn]
    rfl

/-- A `done` on the value byte: the transaction is committed (R171 to R173). -/
theorem driveDisplay_secondDone (late : Nat) : ∀ (s : State) (rest : List Input), s.drv.stage = .sending →
    s.drv.txPhase = .b2Wait →
    s.drv.waited + late < s.cfg.tTimeout →
    driveDisplay (answerInputs s.cfg (.done late) ++ rest) s = driveDisplay rest (commitTransaction s) := by
  induction late with
  | zero =>
    intro s rest hs hp _
    simp only [answerInputs, List.replicate_zero, List.nil_append, List.cons_append]
    rw [driveDisplay_busy (by simp [hs])]
    have ht : driverTick true s = secondByteDone s := by simp [driverTick, transactionTick, hs, hp]
    rw [ht]; unfold secondByteDone leaveSecondGap
    rcases Nat.eq_zero_or_pos s.cfg.tByteGap with h0 | h0
    · rw [if_neg (by simp [h0]), commitTransaction_setPhase]; simp [h0]
    · rw [if_pos (by simpa using h0),
        driveDisplay_secondGap _ (s.setDriver { s.drv with txPhase := .b2Gap, waited := 0 }) _ hs rfl (by simp) h0,
        commitTransaction_setPhase]
  | succ late ih =>
    intro s rest hs hp hw
    rw [answerInputs_done_succ, List.cons_append, driveDisplay_busy (by simp [hs])]
    have ht : driverTick false s = countTick s := by
      simp [driverTick, transactionTick, hs, hp, pollUnanswered, show s.drv.waited + 1 < s.cfg.tTimeout by omega]
    have hn := ih (countTick s) rest (by simp [countTick, hs]) (by simp [countTick, hp]) (by simp [countTick]; omega)
    rw [show (countTick s).cfg = s.cfg from rfl] at hn
    rw [ht, hn]
    exact congrArg _ (commitTransaction_setPhase s s.drv.txPhase (s.drv.waited + 1))

/-- A wait that ends with `never` ends the operation (R172, R174). -/
theorem driveDisplay_never (k : Nat) : ∀ (s : State) (rest : List Input), s.drv.stage = .sending →
    (s.drv.txPhase = .b1Wait ∨ s.drv.txPhase = .b2Wait) → 0 < k → s.drv.waited + k = s.cfg.tTimeout →
    driveDisplay (List.replicate k (.tick false) ++ rest) s = driveDisplay rest (failTransaction s) := by
  induction k with
  | zero => intro _ _ _ _ h; omega
  | succ k ih =>
    intro s rest hs hp _ hw
    rw [List.replicate_succ, List.cons_append, driveDisplay_busy (by simp [hs])]
    have ht : driverTick false s = pollUnanswered s := by rcases hp with h | h <;> simp [driverTick, transactionTick, hs, h]
    rw [ht]; unfold pollUnanswered
    rcases Nat.eq_zero_or_pos k with h0 | h0
    · subst h0
      rw [if_neg (by omega), List.replicate_zero, List.nil_append]
    · rw [if_pos (by omega), ih _ _ (by simp [countTick, hs]) (by simpa [countTick] using hp) h0 (by simp [countTick]; omega)]
      rfl

/-- The answers of the next transaction of a script line: a `never` on its first byte, on its second, or both `done`
(R75). -/
theorem scriptAnswers_transaction (c : Cfg) (ht : 0 < c.tTimeout) (n : Nat) (given : List Answer)
    (hb : ∀ a ∈ given, a.inBound c = true) :
    scriptAnswers (n + 2) given = [.never] ∨
    (∃ l, l < c.tTimeout ∧ scriptAnswers (n + 2) given = [.done l, .never]) ∨
    (∃ l l' later, l < c.tTimeout ∧ l' < c.tTimeout ∧ (∀ a ∈ later, a.inBound c = true) ∧
      scriptAnswers (n + 2) given = .done l :: .done l' :: scriptAnswers n later) := by
  rcases given with _ | ⟨a, given⟩
  · exact Or.inr (Or.inr ⟨0, 0, [], ht, ht, by simp, rfl⟩)
  · rcases a with l | _
    · have hl : l < c.tTimeout := by simpa [Answer.inBound] using hb (.done l) (by simp)
      rcases given with _ | ⟨a, given⟩
      · exact Or.inr (Or.inr ⟨l, 0, [], hl, ht, by simp, rfl⟩)
      · rcases a with l' | _
        · have hl' : l' < c.tTimeout := by simpa [Answer.inBound] using hb (.done l') (by simp)
          exact Or.inr (Or.inr ⟨l, l', given, hl, hl', fun a ha => hb a (by simp [ha]), rfl⟩)
        · exact Or.inr (Or.inl ⟨l, hl, rfl⟩)
    · exact Or.inl rfl

/-- With every answer `done`, a script line presents just these answers (R75). -/
theorem scriptAnswers_allDone (lates : List Nat) :
    scriptAnswers lates.length (lates.map .done) = lates.map .done := by
  induction lates with
  | nil => rfl
  | cons a l ih => simp [scriptAnswers, ih]

/-- The moves that open a transaction (R171). -/
theorem driveDisplay_opening (f : Frame) (later : List Frame) (idx : BitVec 4) (s : State) (rest : List Input) :
    driveDisplay (openingInputs ++ rest) (prepareTransaction f later idx s) =
      driveDisplay rest (sendAddressByte (lowerStrobe (prepareTransaction f later idx s))) := rfl

/-- The move that returns (R49, R170). -/
theorem driveDisplay_return (r : Result) (d : Bool) (s : State) (rest : List Input) :
    driveDisplay (.tick d :: rest) (leaveLink r s) = { finishDisplay r s with inputs := rest } := by
  rw [driveDisplay_busy (by simp [leaveLink])]
  exact driveDisplay_idle rfl rest

/-- A committed last transaction, from its preparation (R171). -/
theorem commit_last (f : Frame) (idx : BitVec 4) (s : State) :
    commitTransaction (sendValueByte (sendAddressByte (lowerStrobe (prepareTransaction f [] idx s)))) =
      leaveLink okDone
        { s with
          link := s.link ++ transactionTrace f
          disp := s.disp.write (displayAddress f.addr) f.value } := by
  rw [commitTransaction_last rfl]
  simp [sendValueByte_eq, sendAddressByte_eq, lowerStrobe_eq, prepareTransaction_eq, leaveLink_eq, transactionTrace]

/-- A committed transaction that is not the last, from its preparation: the next one is prepared (R176). -/
theorem commit_next (f g : Frame) (later : List Frame) (idx : BitVec 4) (s : State) :
    commitTransaction (sendValueByte (sendAddressByte (lowerStrobe (prepareTransaction f (g :: later) idx s)))) =
      prepareTransaction g later (idx + 1)
        { s with
          link := s.link ++ transactionTrace f
          disp := s.disp.write (displayAddress f.addr) f.value } := by
  rw [commitTransaction_next (f := g) (later := later) rfl]
  simp [sendValueByte_eq, sendAddressByte_eq, lowerStrobe_eq, prepareTransaction_eq, transactionTrace]

/-- A wait for the address byte that ends with `never`, from the transaction's preparation (R174). -/
theorem fail_first (f : Frame) (later : List Frame) (idx : BitVec 4) (s : State) :
    failTransaction (sendAddressByte (lowerStrobe (prepareTransaction f later idx s))) =
      leaveLink .timeout { s with link := s.link ++ [.stb0, .byte f.addr, .stb1], disp := s.disp.lose } := by
  simp [failTransaction_eq, sendAddressByte_eq, lowerStrobe_eq, prepareTransaction_eq, leaveLink_eq]

/-- A wait for the value byte that ends with `never`, from the transaction's preparation (R174). -/
theorem fail_second (f : Frame) (later : List Frame) (idx : BitVec 4) (s : State) :
    failTransaction (sendValueByte (sendAddressByte (lowerStrobe (prepareTransaction f later idx s)))) =
      leaveLink .timeout { s with link := s.link ++ transactionTrace f, disp := s.disp.lose } := by
  simp [failTransaction_eq, sendValueByte_eq, sendAddressByte_eq, lowerStrobe_eq, prepareTransaction_eq, leaveLink_eq,
    transactionTrace]

/-- One transaction of the blocking procedure (R171). -/
theorem blockingRun_transaction (f : Frame) (fs : List Frame) (l l' : Nat) (as : List Answer) (m : DisplaySpace) :
    blockingRun (f :: fs) (.done l :: .done l' :: as) m =
      (transactionTrace f ++ (blockingRun fs as (m.write (displayAddress f.addr) f.value)).1,
        (blockingRun fs as (m.write (displayAddress f.addr) f.value)).2) := rfl

/-- Every display operation of a legal configuration has a transaction to send. -/
theorem displayFrames_ne_nil {c : Cfg} (hc : cfgLegal c = true) {i : Instr} {frames : List Frame}
    (hf : displayFrames c i = some frames) : frames ≠ [] := by
  rcases i with _ | _ | _ | _ | _ | ⟨a, v⟩ | ⟨value, dp⟩ | _ | _
  · cases hf
  · cases hf
  · cases hf
  · cases hf
  · cases hf
  · obtain rfl : [(⟨a, v⟩ : Frame)] = frames := Option.some.inj hf
    simp
  · have h : digitFrames value dp = frames := Option.some.inj hf
    rw [← h, ← List.length_pos_iff, digitFrames_length]; norm_num
  · have h : errorFrames c = frames := Option.some.inj hf
    rw [← h, ← List.length_pos_iff, errorFrames_length]; norm_num
  · have h : setupFrames c = frames := Option.some.inj hf
    rw [← h, ← List.length_pos_iff, setupFrames_length]
    rcases ((cfgLegal_iff c).1 hc).2.2.2.2.2.2.2.2.2 with h | h <;> simp [h]

/-- What `exec` does with a display operation when the driver is idle: it prepares the first transaction and lets it run. -/
theorem exec_display {s : State} {i : Instr} {f : Frame} {later : List Frame} (hi : s.drv.stage = .free)
    (hw : i.wellFormed = true) (hf : displayFrames s.cfg i = some (f :: later)) :
    exec i s =
      .next (driveDisplay s.inputs (prepareTransaction f later (if ∃ a v, i = .transmit a v then 0 else 1) s)) := by
  have hs : ∀ frames, frames = f :: later → startSequence frames s =
      driveDisplay s.inputs (prepareTransaction f later 1 s) := by rintro _ rfl; rfl
  rcases i with _ | _ | _ | _ | _ | ⟨a, v⟩ | ⟨value, dp⟩ | _ | _
  · cases hf
  · cases hf
  · cases hf
  · cases hf
  · cases hf
  · cases hf
    rw [if_pos ⟨a, v, rfl⟩]
    exact whenReady_of_idle hi _
  · have h : digitFrames value dp = f :: later := Option.some.inj hf
    have hp : legalPosition dp = true := hw
    rw [if_neg (by simp), ← hs _ h]
    simp only [exec, execDigits, hp, if_true]
    exact whenReady_of_idle hi _
  · have h : errorFrames s.cfg = f :: later := Option.some.inj hf
    rw [if_neg (by simp), ← hs _ h]
    exact whenReady_of_idle hi _
  · have h : setupFrames s.cfg = f :: later := Option.some.inj hf
    rw [if_neg (by simp), ← hs _ h]
    exact whenReady_of_idle hi _

end Sys2Proof.Machine
end

