-- ==== Sys2Proof/Tests/Slice0.lean ====
section
/-! SUPPORT. Tests: the well-formedness check, written-out command words, one-step tests whose expected values are those of
spec/95_test_vectors.md, and for every statement with hypotheses a state and operands that meet them. -/

namespace Sys2Proof.Tests

open Sys2Proof.Machine

/-! Helpers. -/

/-- The reset state with another measurement state. -/
def withMeas (m : Measurement) : State := { State.reset with meas := m }

/-- The measurement state right after entry into a mode. -/
def fresh (m : Mode) : Measurement := { Measurement.atReset with mode := m }

/-- The reset state with inputs presented. -/
def presenting (ins : List Input) : State := { State.reset with inputs := ins }

/-- A configuration with three polls before a timeout and a delay of two units. -/
def slowCfg : Cfg := { cfg0 with tTimeout := 3, tByteGap := 2 }

/-- The reset state of the slow configuration with inputs presented. -/
def slow (ins : List Input) : State := { State.resetWith slowCfg with inputs := ins }

/-- The state after moves of the driver with the flag at these levels. -/
def moved (ds : List Bool) (s : State) : State := ds.foldl (fun s d => driverTick d s) s

/-- A sequence of two transactions that has put nothing on the link yet. -/
def prepared (ins : List Input) : State := prepareTransaction ⟨1, 4⟩ [⟨2, 3⟩] 1 (presenting ins)

/-- The same, waiting for its first address byte. -/
def busy (ins : List Input) : State := moved [false, false] (prepared ins)

/-- The next state of an outcome; the reset state when there is none. -/
def after : Host.Outcome State Fault Refusal → State
  | .next t => t
  | .fault _ => State.reset
  | .refused _ => State.reset

/-! Well-formedness: each position beyond 8 is refused (R67, R69). -/

theorem test_wellFormed_digits_positions :
    (List.range 16).map (fun p => (Instr.digits 1234 (BitVec.ofNat 4 p)).wellFormed) =
      List.replicate 9 true ++ List.replicate 7 false := by decide

theorem test_wellFormed_others :
    [Instr.sample 4095, .overflow, .capture 0xFFFF, .mode .pseudoRms, .render, .transmit 0xFF 0xFF, .errdisp,
      .setup].all Instr.wellFormed = true := by decide

/-! Decoding: words of spec/95 section 2.0, bit 39 first. -/

theorem test_decode_sample_bits :
    decode (0b0001_0000_0000_0000_0000_0000_0000_0111_1101_1111 : BitVec 40) = .legal (.sample 2015) := by decide

theorem test_decode_sample_full : decode 0x1000000FFF = .legal (.sample 4095) := by decide

theorem test_decode_overflow_bits :
    decode (0b0010_0000_0000_0000_0000_0000_0000_0000_0000_0000 : BitVec 40) = .legal .overflow := by decide

theorem test_decode_capture_bits :
    decode (0b0011_0000_0000_0000_0000_0000_1110_1000_0000_0000 : BitVec 40) = .legal (.capture 0xE800) := by decide

theorem test_decode_mode_bits :
    decode (0b0100_0000_0000_0000_0000_0000_0000_0000_0000_0100 : BitVec 40) = .legal (.mode .pseudoRms) := by decide

theorem test_decode_modes :
    [0x4000000000, 0x4000000001, 0x4000000002, 0x4000000003, 0x4000000004].map decode =
      [.legal (.mode .dc), .legal (.mode .frequency), .legal (.mode .zeroToPeak), .legal (.mode .peakToPeak),
        .legal (.mode .pseudoRms)] := by decide

theorem test_decode_render_bits :
    decode (0b0101_0000_0000_0000_0000_0000_0000_0000_0000_0000 : BitVec 40) = .legal .render := by decide

theorem test_decode_transmit_bits :
    decode (0b0110_0000_0000_0000_0000_0000_0000_0100_1000_0001 : BitVec 40) = .legal (.transmit 0x04 0x81) := by decide

theorem test_decode_digits_bits :
    decode (0b0111_0100_0000_0000_0000_0000_0000_0100_1101_0010 : BitVec 40) = .legal (.digits 1234 4) := by decide

theorem test_decode_digits_full : decode 0x78FFFFFFFF = .legal (.digits 4294967295 8) := by decide

theorem test_decode_errdisp_bits :
    decode (0b1000_0000_0000_0000_0000_0000_0000_0000_0000_0000 : BitVec 40) = .legal .errdisp := by decide

theorem test_decode_setup_bits :
    decode (0b1001_0000_0000_0000_0000_0000_0000_0000_0000_0000 : BitVec 40) = .legal .setup := by decide

theorem test_decode_reserved_opcodes :
    [0x0000000000, 0xA000000000, 0xB000000000, 0xC000000000, 0xD000000000, 0xE000000000, 0xF000000000,
      0xFFFFFFFFFF].all (fun w => decide (decode w = .illegal .reservedOpcode)) = true := by decide

theorem test_decode_must_be_zero :
    [0x1000001000, 0x1100000000, 0x2000000001, 0x3000010000, 0x4000000008, 0x5000000001, 0x5400000000, 0x6000010000,
      0x8000000001, 0x9100000000].all (fun w => decide (decode w = .illegal .mustBeZero)) = true := by decide

theorem test_decode_reserved_modes :
    [0x4000000005, 0x4000000006, 0x4000000007].all (fun w => decide (decode w = .illegal .reservedMode)) = true := by
  decide

theorem test_decode_reserved_positions :
    [0x79000004D2, 0x7F00000000].all (fun w => decide (decode w = .illegal .reservedPosition)) = true := by decide

theorem test_table_word : decodeTableWord 40 0x74000004D2 = some (.digits 1234 4) := by decide

/-! One step from reset, with the command word presented next. -/

theorem test_fetched_sample_runs :
    (after (step (State.reset.withFetchWord 40 0x10000007D0))).meas.average = 500 := by decide

theorem test_illegal_word_answered :
    (after (step (presenting [.cmd 0x4000000005]))).responses = [0x4000000000] := by decide

/-! SAMPLE: spec/95 sections 2.3 and 1.3. -/

theorem test_sample_rising_crossing :
    (after (exec (.sample 2015) (withMeas { fresh .peakToPeak with
      currentMinSample := 900, currentMaxSample := 2015, minAverage := 125, maxAverage := 709 }))).meas =
      { fresh .peakToPeak with
        currentMinSample := 2015, currentMaxSample := 2015, minAverage := 217, maxAverage := 709,
        polarity := .above } := by decide

theorem test_sample_falling_crossing :
    (after (exec (.sample 2014) (withMeas { fresh .zeroToPeak with
      currentMinSample := 2015, currentMaxSample := 3100, minAverage := 125, maxAverage := 375,
      polarity := .above }))).meas =
      { fresh .zeroToPeak with
        currentMinSample := 2014, currentMaxSample := 2015, minAverage := 125, maxAverage := 709 } := by decide

/-! OVERFLOW and CAPTURE: spec/95 section 2.2. -/

theorem test_overflow_wraps :
    (after (exec .overflow (withMeas { fresh .frequency with overflowCount := 255 }))).meas.overflowCount = 0 := by
  decide

theorem test_overflow_counts :
    (after (exec .overflow (withMeas { fresh .frequency with overflowCount := 254 }))).meas.overflowCount = 255 := by
  decide

theorem test_capture_with_wrap :
    (after (exec (.capture 0xC000) (withMeas { fresh .frequency with
      lastCapture := 0xE800, overflowCount := 1, average := 7360, captureCount := 255 }))).meas =
      { fresh .frequency with lastCapture := 0xC000, average := 13352, captureCount := 255 } := by decide

theorem test_capture_missed_wrap :
    (after (exec (.capture 0x0010) (withMeas { fresh .frequency with lastCapture := 0xFFF0 }))).meas.average =
      536862724 := by decide

/-! MODE and RENDER: spec/95 section 2.4. -/

theorem test_mode_zeroes :
    (after (exec (.mode .peakToPeak) (withMeas { fresh .peakToPeak with
      minAverage := 217, maxAverage := 709, polarity := .above }))).meas = fresh .peakToPeak := by decide

theorem test_mode_answers_ok : (after (exec (.mode .frequency) State.reset)).responses = [0x0000000000] := by decide

theorem test_render_frequency :
    (after (exec .render (withMeas { fresh .frequency with captureCount := 2, average := 55296 }))).responses =
      [0x00000000C8] := by decide

theorem test_render_peak_to_peak :
    (after (exec .render (withMeas { fresh .peakToPeak with maxAverage := 3000, minAverage := 1000 }))).responses =
      [0x0400000C96] := by decide

/-! The display operations: spec/95 sections 1.4, 1.9 and 2.5. -/

theorem test_transmit_never :
    let t := after (exec (.transmit 0x04 0x81) (presenting (operationInputs cfg0 [.never])))
    t.link = [.stb0, .byte 0x04, .stb1] ∧ t.responses = [0x2000000000] ∧ t.drv = Driver.idle := by decide

theorem test_transmit_slow_link :
    let t := after (exec (.transmit 0x04 0x81) (slow (operationInputs slowCfg [.done 2, .done 0])))
    t.link = [.stb0, .byte 0x04, .byte 0x81, .stb1] ∧ t.disp.cells = [(4, 0x81)] := by decide

theorem test_digits_worked_example :
    (after (exec (.digits 1234 4) (presenting (List.replicate 33 (.tick true))))).disp.cells =
      [(1, 0x04), (2, 0x03), (3, 0x02), (4, 0x81), (5, 0), (6, 0), (7, 0), (8, 0)] := by decide +kernel

theorem test_digits_reserved_position :
    (after (exec (.digits 1234 9) State.reset)).responses = [0x4000000000] := by decide

theorem test_errdisp_frames :
    (after (exec .errdisp (presenting (List.replicate 17 (.tick true))))).disp.cells =
      [(1, 0x0E), (2, 0x0D), (3, 0x0B), (4, 0x0C)] := by decide +kernel

theorem test_setup_frames :
    (after (exec .setup (presenting (List.replicate 21 (.tick true))))).disp.cells =
      [(9, 0xFF), (10, 0x08), (11, 0x07), (12, 0x01), (15, 0x00)] := by decide +kernel

theorem test_render_refused_while_busy : exec .render (busy []) = .refused .commandNotReady := rfl

/-! `rst` between two link events (R240, R263; D19 "atomic per link event"): before the strobe falls, between the strobe and the
address byte, between two transactions, and after the last event but before the response. -/

/-- The outputs of SETUP under `cfg0` when `rst` comes after some of its moves. -/
def setupCutAfter (n : Nat) : State :=
  after (Sys2Proof.core.run 2 (presenting (.cmd 0x9000000000 :: List.replicate n (.tick true) ++ [.rst])))

theorem test_reset_before_strobe : (setupCutAfter 0).link = [] ∧ (setupCutAfter 0).drv = Driver.idle := by decide +kernel

theorem test_reset_between_strobe_and_byte : (setupCutAfter 1).link = [.stb0, .stb1] := by decide +kernel

theorem test_reset_between_transactions :
    (setupCutAfter 4).link = [.stb0, .byte 0x0C, .byte 0x01, .stb1] ∧ (setupCutAfter 4).responses = [] ∧
    (setupCutAfter 5).link = [.stb0, .byte 0x0C, .byte 0x01, .stb1, .stb0, .stb1] := by decide +kernel

theorem test_reset_before_return :
    (setupCutAfter 20).link.length = 20 ∧ (setupCutAfter 20).responses = [] ∧
    (setupCutAfter 21).responses = [0x0000000000] := by decide +kernel

/-! Witnesses: for every statement with hypotheses, a state and operands that meet them. -/

theorem witness_DecodeOfEncode :
    (Instr.digits 0xFFFFFFFF 8).wellFormed = true ∧ (Instr.digits 0 0).wellFormed = true := by decide

theorem witness_EncodeOfDecode : decode 0x600000FFFF = .legal (.transmit 0xFF 0xFF) := by decide

theorem witness_IllegalWordsAnswered :
    (cfgLegal (presenting [.cmd 0xA000000000]).cfg = true ∧
      (presenting [.cmd 0xA000000000]).inputs = .cmd 0xA000000000 :: []) ∧
    (cfgLegal (busy [.cmd 0xA000000000]).cfg = true ∧
      (busy [.cmd 0xA000000000]).inputs = .cmd 0xA000000000 :: [] ∧
      (busy [.cmd 0xA000000000]).drv.stage ≠ .free) ∧
    illegalWord 0x0FFFFFFFFF ∧ illegalWord 0xA000000000 ∧ illegalWord 0x1000001000 ∧ illegalWord 0x4000000005 ∧
    illegalWord 0x7900000000 ∧ ¬illegalWord 0x1000000FFF ∧ ¬illegalWord 0x4000000004 ∧ ¬illegalWord 0x7800000000 ∧
    ¬illegalWord 0x9000000000 := by
  refine ⟨by decide, by decide, .inl rfl, .inr (.inl (by decide)), .inr (.inr (.inl (by decide))),
    .inr (.inr (.inr (.inl ⟨rfl, by decide⟩))), .inr (.inr (.inr (.inr ⟨rfl, by decide⟩))), ?_, ?_, ?_, ?_⟩ <;>
  simp [illegalWord, opcodeNumber, mustBeZeroMask]

theorem witness_StepRunsDecodedInstruction :
    cfgLegal (presenting [.cmd 0x9000000000]).cfg = true ∧
    (presenting [.cmd 0x9000000000]).inputs = .cmd 0x9000000000 :: [] ∧ decode 0x9000000000 = .legal .setup := by decide

theorem witness_StepWaitsOrTicks :
    cfgLegal State.reset.cfg = true ∧ State.reset.inputs = [] ∧
    (presenting [.tick false]).inputs = .tick false :: [] := by decide

theorem witness_ConfigurationLegalAndConstant : step State.reset = .next State.reset := rfl

theorem witness_RefreshCommandFromResponse : ∀ value dp, Result.outOfRange ≠ .ok value dp := by intro _ _; simp

theorem witness_EmaMonotoneBounds :
    (8 : Acc).toNat ≤ (16 : Acc).toNat ∧ 2 ^ (3 : BitVec 4).toNat ∣ (8 : Acc).toNat ∧
    2 ^ (3 : BitVec 4).toNat ∣ (16 : Acc).toNat ∧ (8 : Acc).toNat < (16 : Acc).toNat := by decide

theorem witness_EmaSteadyState :
    2 ^ (3 : BitVec 4).toNat ∣ (1000 : Acc).toNat ∧ (1000 : Acc).toNat ≤ (4095 : Acc).toNat := by decide

theorem witness_SampleInDcMode : (withMeas (fresh .dc)).meas.mode = .dc := rfl

theorem witness_SampleInFrequencyMode : (withMeas (fresh .frequency)).meas.mode = .frequency := rfl

/-- The four clauses, at the baseline and just below it, and in both modes. -/
theorem witness_SampleInPeakModes :
    ((fresh .zeroToPeak).mode = .zeroToPeak ∧ (fresh .peakToPeak).mode = .peakToPeak) ∧
    (cfg0.baseline.toNat ≤ (2015 : BitVec 12).toNat ∧ (2014 : BitVec 12).toNat < cfg0.baseline.toNat) ∧
    (withMeas (fresh .zeroToPeak)).meas.polarity = .below ∧
    (withMeas { fresh .peakToPeak with polarity := .above }).meas.polarity = .above := by decide

theorem witness_FirstHalfCycle :
    (∀ y ∈ [0, (2014 : BitVec 12)], y.toNat < cfg0.baseline.toNat) ∧
    cfg0.baseline.toNat ≤ (2015 : BitVec 12).toNat :=
  ⟨by simp [cfg0], by simp [cfg0]⟩

theorem witness_FoldsCountCrossings :
    (fresh .peakToPeak).mode = .peakToPeak ∧ (fresh .peakToPeak).polarity = .below ∧
    risingFolds cfg0 (fresh .peakToPeak) [2600, 1400, 3015, 1015] = 2 := by decide

theorem witness_SampleInPseudoRmsMode : (withMeas (fresh .pseudoRms)).meas.mode = .pseudoRms := rfl

theorem witness_OverflowCounts :
    (withMeas { fresh .frequency with overflowCount := 255 }).meas.mode = .frequency ∧
    (withMeas (fresh .dc)).meas.mode ≠ .frequency := by decide

theorem witness_CaptureFoldsElapsed :
    (withMeas { fresh .frequency with captureCount := 255 }).meas.mode = .frequency ∧
    (withMeas (fresh .peakToPeak)).meas.mode ≠ .frequency := by decide

theorem witness_ElapsedByCases :
    (0x8000 : BitVec 16).toNat ≤ (0x8000 : BitVec 16).toNat ∧ (0 : BitVec 16).toNat < (0xFFFF : BitVec 16).toNat ∧
    1 ≤ (1 : BitVec 8).toNat ∧ (0 : BitVec 8).toNat = 0 := by decide

theorem witness_TimerEventsGatedByMode : (withMeas (fresh .dc)).meas.mode ≠ .frequency := by decide

theorem witness_CoincidentWrapAndEdge :
    (withMeas { fresh .frequency with overflowCount := 254 }).meas.mode = .frequency ∧
    (withMeas { fresh .frequency with overflowCount := 254 }).meas.overflowCount.toNat < 255 ∧
    (254 : BitVec 8).toNat < 255 := by decide

theorem witness_SampleCommutesWithTimerEvents :
    contextOf .overflow = .timerHandler ∧ contextOf (.capture 7) = .timerHandler ∧
    (∃ t, exec (.sample 2000) State.reset = .next t) ∧ ∃ u, exec (.capture 7) State.reset = .next u :=
  ⟨rfl, rfl, ⟨_, rfl⟩, ⟨_, rfl⟩⟩

theorem witness_ModeEntryZeroes :
    0x4000000005 ≤ (0x4000000005 : CmdWord).toNat ∧ (0x4000000007 : CmdWord).toNat ≤ 0x4000000007 ∧
    (withMeas { fresh .dc with average := 4095 }).drv.stage = .free := by decide

theorem witness_RenderInDcMode :
    (withMeas { fresh .dc with average := 4095 }).drv.stage = .free ∧
    (withMeas { fresh .dc with average := 4095 }).meas.mode = .dc ∧
    (withMeas { fresh .dc with average := 4095 }).meas.average.toNat ≤ 4095 := by decide

/-- Not settled at the last count; settled at the next, below the band, at its two ends and above it. -/
theorem witness_RenderInFrequencyMode :
    cfgLegal cfg0 = true ∧ (withMeas (fresh .frequency)).drv.stage = .free ∧
    (withMeas (fresh .frequency)).meas.mode = .frequency ∧
    (1 : BitVec 8).toNat ≤ cfg0.nSettle.toNat ∧ cfg0.nSettle.toNat < (2 : BitVec 8).toNat ∧
    (999 : Acc).toNat < cfg0.avgFMin.toNat ∧ cfg0.avgFMax.toNat < (1000001 : Acc).toNat ∧
    cfg0.avgFMin.toNat ≤ (1000 : Acc).toNat ∧ (1000000 : Acc).toNat ≤ cfg0.avgFMax.toNat := by decide

theorem witness_RenderInZeroToPeakMode :
    (withMeas { fresh .zeroToPeak with maxAverage := 4095 }).drv.stage = .free ∧
    (withMeas { fresh .zeroToPeak with maxAverage := 4095 }).meas.mode = .zeroToPeak ∧
    (4095 : Acc).toNat ≤ 4095 ∧ (2014 : Acc).toNat < cfg0.baseline.toNat ∧
    cfg0.baseline.toNat ≤ (2015 : Acc).toNat := by decide

theorem witness_RenderInPeakToPeakMode :
    (withMeas { fresh .peakToPeak with maxAverage := 999, minAverage := 1000 }).drv.stage = .free ∧
    (withMeas { fresh .peakToPeak with maxAverage := 999, minAverage := 1000 }).meas.mode = .peakToPeak ∧
    (4095 : Acc).toNat ≤ 4095 ∧ (999 : Acc).toNat < (1000 : Acc).toNat ∧ (1000 : Acc).toNat ≤ (1000 : Acc).toNat := by
  decide

theorem witness_RenderInPseudoRmsMode :
    (withMeas { fresh .pseudoRms with rectAverage := 4095 }).drv.stage = .free ∧
    (withMeas { fresh .pseudoRms with rectAverage := 4095 }).meas.mode = .pseudoRms ∧ (4095 : Acc).toNat ≤ 4095 := by
  decide

/-- An Ok result in every mode, each clause at a boundary of its range. -/
theorem witness_RenderProductsFit :
    cfgLegal cfg0 = true ∧
    (measBounds cfg0 { fresh .dc with average := 4095 } ∧
      renderResult cfg0 { fresh .dc with average := 4095 } = .ok 3299 4) ∧
    (measBounds cfg0 { fresh .frequency with average := 1000, captureCount := 2 } ∧
      cfg0.nSettle.toNat < (2 : BitVec 8).toNat ∧ cfg0.avgFMin.toNat ≤ (1000 : Acc).toNat ∧
      (1000 : Acc).toNat ≤ cfg0.avgFMax.toNat ∧
      renderResult cfg0 { fresh .frequency with average := 1000, captureCount := 2 } = .ok 11059 0) ∧
    (measBounds cfg0 { fresh .zeroToPeak with maxAverage := 4095 } ∧ cfg0.baseline.toNat ≤ (2015 : Acc).toNat ∧
      renderResult cfg0 { fresh .zeroToPeak with maxAverage := 4095 } = .ok 3351 4 ∧
      renderResult cfg0 { fresh .zeroToPeak with maxAverage := 2015 } = .ok 0 4) ∧
    (measBounds cfg0 { fresh .peakToPeak with maxAverage := 4095, minAverage := 4095 } ∧
      renderResult cfg0 { fresh .peakToPeak with maxAverage := 4095 } = .ok 6598 4 ∧
      renderResult cfg0 { fresh .peakToPeak with maxAverage := 4095, minAverage := 4095 } = .ok 0 4) ∧
    (measBounds cfg0 { fresh .pseudoRms with rectAverage := 4095 } ∧
      renderResult cfg0 { fresh .pseudoRms with rectAverage := 4095 } = .ok 6598 4) := by decide

theorem witness_RenderOfFreshMode :
    cfgLegal State.reset.cfg = true ∧ State.reset.drv.stage = .free ∧
    (∃ t, exec (.mode .zeroToPeak) State.reset = .next t) ∧ ∃ t, exec .render State.reset = .next t :=
  ⟨by decide, rfl, ⟨_, rfl⟩, ⟨_, rfl⟩⟩

theorem witness_TransmitCommits :
    let s := slow (operationInputs slowCfg [.done 2, .done 0] ++ [.rst])
    s.drv.stage = .free ∧ 2 < s.cfg.tTimeout ∧ 0 < s.cfg.tTimeout ∧
    s.inputs = operationInputs s.cfg [.done 2, .done 0] ++ [.rst] := by decide

theorem witness_TransmitTimesOut :
    let s := slow (operationInputs slowCfg [.never] ++ [.tick true])
    let t := slow (operationInputs slowCfg [.done 2, .never] ++ [])
    s.drv.stage = .free ∧ 2 < s.cfg.tTimeout ∧ s.inputs = operationInputs s.cfg [.never] ++ [.tick true] ∧
    t.inputs = operationInputs t.cfg [.done 2, .never] ++ [] := by decide

/-- All waits of an operation answered at the last poll of the slow configuration. -/
def lastPolls (n : Nat) : List Input := operationInputs slowCfg ((List.replicate n 2).map .done)

theorem witness_DigitsCommitsEightDigits :
    (slow (lastPolls 16 ++ [.rst])).drv.stage = .free ∧ (8 : BitVec 4).toNat ≤ 8 ∧ (0 : BitVec 4).toNat ≤ 8 ∧
    (List.replicate 16 2).length = 16 ∧ (∀ n ∈ List.replicate 16 2, n < slowCfg.tTimeout) ∧
    (slow (lastPolls 16 ++ [.rst])).inputs =
      operationInputs slowCfg ((List.replicate 16 2).map .done) ++ [.rst] :=
  ⟨rfl, by decide, by decide, rfl, by decide, rfl⟩

theorem witness_ErrdispCommitsTable :
    (slow (lastPolls 8 ++ [])).drv.stage = .free ∧ (List.replicate 8 2).length = 8 ∧
    (∀ n ∈ List.replicate 8 2, n < slowCfg.tTimeout) ∧
    (slow (lastPolls 8 ++ [])).inputs =
      operationInputs slowCfg ((List.replicate 8 2).map .done) ++ [] ∧
    ∀ f ∈ slowCfg.errSeq.toList, f.addr.toNat % 16 ≠ 5 :=
  ⟨rfl, rfl, by decide, rfl, by decide⟩

theorem witness_SetupCommitsTable :
    cfgLegal slowCfg = true ∧ (slow (lastPolls 10 ++ [])).drv.stage = .free ∧
    (List.replicate 10 2).length = 2 * slowCfg.setupLen.toNat ∧ (∀ n ∈ List.replicate 10 2, n < slowCfg.tTimeout) ∧
    (slow (lastPolls 10 ++ [])).inputs =
      operationInputs slowCfg ((List.replicate 10 2).map .done) ++ [] ∧
    (∀ f ∈ slowCfg.setupSeq.toList.take slowCfg.setupLen.toNat, f.addr.toNat % 16 ≠ 1) ∧
    cfgLegal { slowCfg with setupLen := 4 } = true :=
  ⟨by decide, rfl, rfl, by decide, rfl, by decide, by decide⟩

theorem witness_SetupIdempotent :
    let inputs := operationInputs cfg0 ((List.replicate 10 0).map .done)
    ∃ t u, exec .setup (presenting (inputs ++ (inputs ++ []))) = .next t ∧ exec .setup t = .next u ∧ u.inputs = [] :=
  ⟨_, _, rfl, rfl, rfl⟩

theorem witness_DisplayRefinesBlockingProcedure :
    let given := [Answer.done 2, .done 0, .never]
    let answers := scriptAnswers (2 * (errorFrames slowCfg).length) given
    let s := slow (operationInputs slowCfg answers ++ [.rst])
    cfgLegal s.cfg = true ∧ s.drv.stage = .free ∧ Instr.errdisp.wellFormed = true ∧
    displayFrames s.cfg .errdisp = some (errorFrames slowCfg) ∧ (∀ a ∈ given, a.inBound s.cfg = true) ∧
    s.inputs = operationInputs s.cfg answers ++ [.rst] :=
  ⟨by decide, rfl, rfl, rfl, by decide, rfl⟩

theorem witness_DisplayOperationStarts :
    (presenting [.rst]).drv.stage = .free ∧
    (displayFrames (presenting [.rst]).cfg (.transmit 1 4) = some (⟨1, 4⟩ :: []) ∧
      (Instr.transmit 1 4).wellFormed = true) ∧
    (displayFrames (presenting [.rst]).cfg (.digits 1234 8) = some (⟨1, 4⟩ :: (digitFrames 1234 8).tail) ∧
      (Instr.digits 1234 8).wellFormed = true) ∧
    (displayFrames (presenting [.rst]).cfg .errdisp = some (⟨1, 0x0E⟩ :: (errorFrames cfg0).tail) ∧
      Instr.errdisp.wellFormed = true) ∧
    (displayFrames (presenting [.rst]).cfg .setup = some (⟨0x0C, 1⟩ :: (setupFrames cfg0).tail) ∧
      Instr.setup.wellFormed = true) ∧
    (∀ (d : Bool) (rest : List Input), (presenting [.rst]).inputs ≠ .tick d :: rest) ∧
    (presenting [.tick true, .rst]).inputs = .tick true :: [.rst] ∧
    (presenting [.tick true, .tick true, .rst]).inputs = .tick true :: .tick true :: [.rst] :=
  ⟨rfl, ⟨rfl, rfl⟩, ⟨by decide, rfl⟩, ⟨by decide, rfl⟩, ⟨by decide, rfl⟩, fun _ _ h => (by cases h), rfl, rfl⟩

/-- One state for each clause: before the strobe falls, between the strobe and the address byte, within a transaction, a wait that
ends with `never`, a commit with a transaction to follow after a wait and after a delay, a last commit, and the return. -/
theorem witness_SequencerGoesForward :
    (prepared []).drv.stage = .opening ∧ (moved [true] (prepared [])).drv.stage = .addressing ∧
    ((busy []).drv.stage = .sending ∧ (busy []).drv.txPhase = .b1Wait ∧ (busy []).cfg.tByteGap = 0 ∧
      (moved [true] (busy [])).link = [.stb0, .byte 1, .byte 4]) ∧
    (busy []).cfg.tTimeout ≤ (busy []).drv.waited + 1 ∧
    ((moved [true] (busy [])).drv.txPhase = .b2Wait ∧ (moved [true] (busy [])).drv.queue = ⟨2, 3⟩ :: []) ∧
    ((moved [true, true, true, true, true] (busy [])).drv.queue = [] ∧
      (moved [true, true, true, true, true] (busy [])).drv.txPhase = .b2Wait) ∧
    (moved [true, true, true, true, true, true] (busy [])).drv.stage = .returning (.ok 0 0) ∧
    (let s : State := { busy [] with cfg := slowCfg, drv := { (busy []).drv with txPhase := .b2Gap, waited := 1 } }
     s.drv.stage = .sending ∧ s.cfg.tByteGap ≤ s.drv.waited + 1) := by decide

/-- TRANSMIT with a sample and a wrap between its answers, and ERRDISP that times out with a capture before it does. -/
theorem witness_InterruptedDisplayOperation :
    let ins : List Input :=
      [.cmd 0x10000007DF, .tick false, .cmd 0x2000000000, .tick false, .tick true, .tick true, .tick false]
    let late : List Input := [.tick false, .tick false, .tick true, .cmd 0x3000001234, .tick false, .tick false]
    cfgLegal State.reset.cfg = true ∧ State.reset.drv.stage = .free ∧ (Instr.transmit 1 4).wellFormed = true ∧
    displayFrames State.reset.cfg (.transmit 1 4) = some [⟨1, 4⟩] ∧
    displayFrames State.reset.cfg .errdisp = some (errorFrames cfg0) ∧
    (∀ a ∈ [Answer.done 0, .never], a.inBound cfg0 = true) ∧
    (decode 0x10000007DF = .legal (.sample 2015) ∧ decode 0x2000000000 = .legal .overflow ∧
      decode 0x3000001234 = .legal (.capture 0x1234)) ∧
    (contextOf (.sample 2015) ≠ .mainLoop ∧ contextOf .overflow ≠ .mainLoop ∧ contextOf (.capture 0x1234) ≠ .mainLoop) ∧
    ins.filter (fun x => match x with | .tick _ => true | _ => false) =
      operationInputs cfg0 (scriptAnswers 2 []) ∧
    late.filter (fun x => match x with | .tick _ => true | _ => false) =
      operationInputs cfg0 (scriptAnswers 8 [.done 0, .never]) := by
  refine ⟨by decide, rfl, rfl, rfl, rfl, by decide, by decide, by decide, rfl, rfl⟩

theorem witness_DriverReturnsWithinBound :
    let s := busy ((List.replicate 9 true).map Input.tick)
    cfgLegal s.cfg = true ∧ driverConsistent s.cfg s.drv ∧ s.drv.stage ≠ .free ∧
    (List.replicate 9 true).length = (1 + s.drv.queue.length) * (2 * (s.cfg.tTimeout + s.cfg.tByteGap + 1)) + 1 ∧
    s.inputs = (List.replicate 9 true).map Input.tick := by decide

theorem witness_MainLoopBlockedHandlersAccepted :
    (busy []).drv.stage ≠ .free ∧ contextOf (.digits 1 8) = .mainLoop ∧ (Instr.digits 1 8).wellFormed = true ∧
    contextOf (.sample 1) ≠ .mainLoop := by decide

theorem witness_HandlersCommuteWithDriver :
    contextOf (.sample 2000) ≠ .mainLoop ∧ ∃ t, exec (.sample 2000) (busy []) = .next t := ⟨by decide, _, rfl⟩

theorem witness_InterleavingUnobservable :
    cfgLegal (busy []).cfg = true ∧
    ∀ x ∈ [Input.tick true, .cmd 0x10000007DF, .tick true],
      (∃ d, x = .tick d) ∨ ∃ w i, x = .cmd w ∧ decode w = .legal i ∧ contextOf i ≠ .mainLoop := by
  refine ⟨by decide, fun x hx => ?_⟩
  simp only [List.mem_cons, List.not_mem_nil, or_false] at hx
  rcases hx with rfl | rfl | rfl
  · exact .inl ⟨_, rfl⟩
  · exact .inr ⟨_, .sample 2015, rfl, by decide, by decide⟩
  · exact .inl ⟨_, rfl⟩

/-- An error of RENDER, an illegal command and a timeout. -/
theorem witness_ErrorsLeaveRegisters :
    (∃ t, exec .render (withMeas (fresh .zeroToPeak)) = .next t ∧ t.responses = [] ++ [responseWord .outOfRange]) ∧
    (∃ t, exec (.digits 0 9) State.reset = .next t ∧ t.responses = [] ++ [responseWord .illegal]) ∧
    ∃ t, exec .errdisp (presenting (operationInputs cfg0 [.never])) = .next t ∧
      t.responses = [] ++ [responseWord .timeout] :=
  ⟨⟨_, rfl, by decide⟩, ⟨_, rfl, by decide⟩, ⟨_, rfl, by decide⟩⟩

theorem witness_EveryOperationAvailable : State.reset.drv.stage = .free := rfl

theorem witness_OutputsOnlyGrow :
    (∃ t, step (presenting [.cmd 0x9000000000, .tick true, .tick true]) = .next t ∧ t.link ≠ []) ∧
    ∃ t, step (busy [.tick true]) = .next t ∧ t.link = (busy []).link ++ [.byte 4] :=
  ⟨⟨_, rfl, by decide⟩, _, rfl, by decide⟩

/-- Each register is written by its owner in some step. -/
theorem witness_RegistersHaveOneOwner :
    (∃ t, exec (.mode .frequency) State.reset = .next t ∧ t.meas.mode ≠ State.reset.meas.mode) ∧
    (∃ t, exec (.sample 4095) State.reset = .next t ∧ t.meas.average ≠ State.reset.meas.average) ∧
    (∃ t, exec (.sample 2015) (withMeas (fresh .zeroToPeak)) = .next t ∧ t.meas.polarity ≠ .below) ∧
    (∃ t, exec (.sample 0) (withMeas (fresh .pseudoRms)) = .next t ∧ t.meas.rectAverage ≠ 0) ∧
    (∃ t, exec (.capture 1) (withMeas (fresh .frequency)) = .next t ∧ t.meas.lastCapture ≠ 0) ∧
    (∃ t, exec .overflow (withMeas (fresh .frequency)) = .next t ∧ t.meas.overflowCount ≠ 0) ∧
    ∃ t, exec .setup State.reset = .next t ∧ t.drv ≠ State.reset.drv :=
  ⟨⟨_, rfl, by decide⟩, ⟨_, rfl, by decide⟩, ⟨_, rfl, by decide⟩, ⟨_, rfl, by decide⟩, ⟨_, rfl, by decide⟩,
    ⟨_, rfl, by decide⟩, ⟨_, rfl, by decide⟩⟩

theorem witness_OnlyModeOrResetChangesMode :
    (∃ t, step (presenting [.cmd 0x4000000003]) = .next t ∧ t.meas.mode ≠ .dc) ∧
    ∃ t, step { presenting [.rst] with meas := fresh .frequency } = .next t ∧ t.meas.mode ≠ .frequency :=
  ⟨⟨_, rfl, by decide⟩, ⟨_, rfl, by decide⟩⟩

theorem witness_AfterReset : cfgLegal cfg0 = true ∧ contextOf .overflow ≠ .mainLoop := by decide

theorem witness_ResetInput :
    cfgLegal (busy [.rst]).cfg = true ∧ (busy [.rst]).inputs = .rst :: [] ∧ (busy [.rst]).drv.strobe = .low ∧
    (busy [.rst]).drv.stage ≠ .free ∧ (presenting [.rst]).inputs = .rst :: [] ∧
    (presenting [.rst]).drv.strobe = .high ∧ (presenting [.rst]).drv.stage = .free ∧
    (Instr.transmit 1 4).wellFormed = true ∧ displayFrames cfg0 (.transmit 1 4) = some [⟨1, 4⟩] ∧
    (∀ a ∈ [Answer.done 0, .never], a.inBound cfg0 = true) ∧
    (blockingRun [⟨1, 4⟩] (scriptAnswers 2 [.done 0, .never]) DisplaySpace.atPowerOn).1.length = 4 := by decide

theorem witness_StepKeepsMeasBounds :
    measBounds (presenting [.cmd 0x1000000FFF]).cfg (presenting [.cmd 0x1000000FFF]).meas ∧
    ∃ t, step (presenting [.cmd 0x1000000FFF]) = .next t := ⟨by decide, _, rfl⟩

theorem witness_HeldMaximumAfterFold :
    (fresh .zeroToPeak).mode = .zeroToPeak ∧ ({ fresh .zeroToPeak with polarity := .above } : Measurement).polarity = .above ∧
    (2014 : BitVec 12).toNat < cfg0.baseline.toNat ∧
    cfg0.baseline.toNat ≤ (withMeas { fresh .zeroToPeak with currentMaxSample := 2015 }).meas.currentMaxSample.toNat ∧
    ∃ t, step (withMeas { fresh .zeroToPeak with currentMaxSample := 2015 }) = .next t :=
  ⟨rfl, rfl, by decide, by decide, _, rfl⟩

theorem witness_StepKeepsDriverAndFraming :
    (driverConsistent (busy [.tick true]).cfg (busy [.tick true]).drv ∧ linkWellFramed (busy [.tick true]) ∧
      ∃ t, step (busy [.tick true]) = .next t) ∧
    (let s := moved [true] (prepared [.tick true])
     driverConsistent s.cfg s.drv ∧ linkWellFramed s ∧ s.drv.stage = .addressing ∧ s.inputs ≠ [.rst] ∧
      ∃ t, step s = .next t) :=
  ⟨⟨by decide, by decide, _, rfl⟩, by decide, by decide, by decide, by decide, _, rfl⟩

theorem witness_StepKeepsDisplayRegisters :
    Memory.wf [(0, 1), (15, 2)] = true ∧ Memory.wf [(16, 0)] = false ∧ Memory.wf [(2, 0), (1, 0)] = false ∧
    ∃ t, step { presenting [.cmd 0x9000000000] with disp := ⟨[(0, 1), (15, 2)], 3⟩ } = .next t :=
  ⟨by decide, by decide, by decide, _, rfl⟩

end Sys2Proof.Tests
end

section
/-! The configuration record (R2): which values are legal, that an illegal one is refused and nothing else is refused with
that ground, and that no operation and no step writes it. -/

namespace Sys2Proof.Machine

/-! The legal values of the table. -/

/-- The five positions of `DP_POS` field by field; the one of mode DC is fixed at 4, which is within the bound (R2, R154). -/
theorem decimalPoints_legal_iff (c : Cfg) :
    (c.dpPos.dc = 4 ∧ ∀ m : Mode, (decimalPointOf c m).toNat ≤ 8) ↔
      c.dpPos.dc = 4 ∧ c.dpPos.frequency.toNat ≤ 8 ∧ c.dpPos.zeroToPeak.toNat ≤ 8 ∧
      c.dpPos.peakToPeak.toNat ≤ 8 ∧ c.dpPos.pseudoRms.toNat ≤ 8 := by
  constructor
  · rintro ⟨hdc, hall⟩
    exact ⟨hdc, hall .frequency, hall .zeroToPeak, hall .peakToPeak, hall .pseudoRms⟩
  · rintro ⟨hdc, hfreq, hzero, hpeak, hrms⟩
    refine ⟨hdc, fun m => ?_⟩
    cases m with
    | dc => simp [decimalPointOf, hdc]
    | frequency => exact hfreq
    | zeroToPeak => exact hzero
    | peakToPeak => exact hpeak
    | pseudoRms => exact hrms

/-- `SETUP_LEN` as a number. -/
theorem setupLen_legal_iff (n : BitVec 3) : n = 4 ∨ n = 5 ↔ n.toNat = 4 ∨ n.toNat = 5 :=
  or_congr BitVec.toNat_inj.symm BitVec.toNat_inj.symm

/-- The legality test is the table of R2, its fields read as numbers. -/
theorem cfgLegal_iff_table (c : Cfg) :
    cfgLegal c = true ↔
      1 ≤ c.avgFMin.toNat ∧ c.avgFMin.toNat ≤ c.avgFMax.toNat ∧ c.nSettle.toNat ≤ 254 ∧
      (c.dpPos.dc = 4 ∧ ∀ m : Mode, (decimalPointOf c m).toNat ≤ 8) ∧ 1 ≤ c.tTimeout ∧
      (c.setupLen.toNat = 4 ∨ c.setupLen.toNat = 5) := by
  rw [cfgLegal_iff, decimalPoints_legal_iff, setupLen_legal_iff]
  simp only [and_assoc]

/-! What is refused. -/

/-- A main-loop operation is refused exactly when the driver is busy, and on no other ground (R217). -/
theorem whenReady_refused_iff (s s' : State) (r : Refusal) :
    whenReady s s' = .refused r ↔ s.drv.stage ≠ .free ∧ r = .commandNotReady := by
  unfold whenReady; split <;> simp_all [eq_comm]

/-- When an operation is refused: it is one of the main loop, and the driver is busy (R217). -/
theorem exec_refused {i : Instr} {s : State} {r : Refusal} (h : exec i s = .refused r) :
    contextOf i = .mainLoop ∧ s.drv.stage ≠ .free ∧ r = .commandNotReady := by
  cases i with
  | sample x => cases h
  | overflow => cases h
  | capture c => cases h
  | mode m => exact ⟨rfl, (whenReady_refused_iff _ _ _).1 h⟩
  | render => exact ⟨rfl, (whenReady_refused_iff _ _ _).1 h⟩
  | transmit a v => exact ⟨rfl, (whenReady_refused_iff _ _ _).1 h⟩
  | digits value dp =>
    simp only [exec, execDigits] at h
    split at h
    · exact ⟨rfl, (whenReady_refused_iff _ _ _).1 h⟩
    · cases h
  | errdisp => exact ⟨rfl, (whenReady_refused_iff _ _ _).1 h⟩
  | setup => exact ⟨rfl, (whenReady_refused_iff _ _ _).1 h⟩

/-- An input is refused only as an operation of the main loop while the driver is busy; ticks, `rst` and illegal words never
are (R67, R217). -/
theorem acceptInput_refused {x : Input} {s : State} {r : Refusal} (h : acceptInput x s = .refused r) :
    s.drv.stage ≠ .free ∧ r = .commandNotReady := by
  cases x with
  | cmd w =>
    simp only [acceptInput, acceptCommand] at h
    split at h
    · exact (exec_refused h).2
    · cases h
  | tick d => cases h
  | rst => cases h

theorem step_of_illegal {s : State} (hc : cfgLegal s.cfg = false) : step s = .refused .illegalConfiguration := by
  simp [step, stepInputs, hc]

/-- Under a legal configuration the only ground of refusal is a command presented too early (R217). -/
theorem step_refused_of_legal {s : State} {r : Refusal} (hc : cfgLegal s.cfg = true) (h : step s = .refused r) :
    s.drv.stage ≠ .free ∧ r = .commandNotReady := by
  simp only [step, stepInputs, hc, if_true] at h
  split at h
  · cases h
  · obtain ⟨hbusy, hr⟩ := acceptInput_refused h
    exact ⟨hbusy, hr⟩

/-- A step is refused for its configuration exactly when that is outside the legal values (R2, U10). -/
theorem step_refused_illegalConfiguration_iff (s : State) :
    step s = .refused .illegalConfiguration ↔ cfgLegal s.cfg = false := by
  refine ⟨fun h => ?_, step_of_illegal⟩
  by_contra hc
  obtain ⟨-, hr⟩ := step_refused_of_legal (Bool.of_not_eq_false hc) h
  cases hr

/-! What leaves the configuration alone. -/

@[simp] theorem applyReset_cfg (s : State) : (applyReset s).cfg = s.cfg := rfl

@[simp] theorem driverTick_cfg (d : Bool) (s : State) : (driverTick d s).cfg = s.cfg := (driverTick_outside d s).cfg

@[simp] theorem startSequence_cfg (frames : List Frame) (s : State) : (startSequence frames s).cfg = s.cfg := by
  cases frames with
  | nil => rfl
  | cons f later => rw [startSequence_cons, driveDisplay_cfg]; rfl

@[simp] theorem startTransmit_cfg (f : Frame) (s : State) : (startTransmit f s).cfg = s.cfg := by
  unfold startTransmit; rw [driveDisplay_cfg]; rfl

/-- No operation writes the configuration (R2). -/
theorem exec_cfg {i : Instr} {s t : State} (h : exec i s = .next t) : t.cfg = s.cfg := by
  rcases exec_cases h with ⟨x, -, rfl⟩ | ⟨-, rfl⟩ | ⟨c, -, rfl⟩ | ⟨m, -, -, rfl⟩ | ⟨-, -, rfl⟩ |
    ⟨a, v, -, -, rfl⟩ | ⟨value, dp, -, -, -, rfl⟩ | ⟨value, dp, -, -, rfl⟩ | ⟨-, -, rfl⟩ | ⟨-, -, rfl⟩
  · rfl
  · rfl
  · rfl
  · rfl
  · rfl
  · exact startTransmit_cfg _ _
  · exact startSequence_cfg _ _
  · rfl
  · exact startSequence_cfg _ _
  · exact startSequence_cfg _ _

/-- No step writes the configuration, whatever input it takes (R2). -/
theorem step_cfg {s t : State} (h : step s = .next t) : t.cfg = s.cfg := by
  obtain ⟨-, ⟨-, rfl⟩ | ⟨d, rest, -, rfl⟩ | ⟨rest, -, rfl⟩ | ⟨w, i, rest, -, -, he⟩ | ⟨w, e, rest, -, -, rfl⟩⟩ :=
    step_cases h
  · rfl
  · exact driverTick_cfg d _
  · rfl
  · exact (exec_cfg he).trans rfl
  · rfl

/-- Settles O7: the table, then the refusal, then the frame of a step. -/
theorem configurationLegalAndConstant : Obligations.ConfigurationLegalAndConstant :=
  ⟨cfgLegal_iff_table, step_refused_illegalConfiguration_iff, fun _ _ => step_cfg⟩

end Sys2Proof.Machine
end

section
/-! The measurement state over a step (R10, R24, R240): what a step can do to S0 to S10, which step changes the mode, and the
bounds every step keeps. -/

namespace Sys2Proof.Machine

/-! What a step does to the measurement state. -/

/-- S0 to S10 after a step: as they were, their reset values at a `rst`, or what the operation presented makes of them. -/
theorem step_meas {s t : State} (h : step s = .next t) :
    t.meas = s.meas ∨
    (∃ rest, s.inputs = .rst :: rest ∧ t.meas = .atReset) ∨
    (∃ w i rest, s.inputs = .cmd w :: rest ∧ decode w = .legal i ∧ t.meas = measurementAfter s.cfg s.meas i) := by
  obtain ⟨-, ⟨-, rfl⟩ | ⟨d, rest, -, rfl⟩ | ⟨rest, hrst, rfl⟩ | ⟨w, i, rest, hw, hd, he⟩ | ⟨w, e, rest, -, -, rfl⟩⟩ :=
    step_cases h
  · exact .inl rfl
  · exact .inl (driverTick_outside d _).meas
  · exact .inr (.inl ⟨rest, hrst, rfl⟩)
  · have hm := exec_meas he
    exact .inr (.inr ⟨w, i, rest, hw, hd, hm⟩)
  · exact .inl rfl

theorem overflowStep_of_frequency {m : Measurement} (h : m.mode = .frequency) :
    overflowStep m = { m with overflowCount := m.overflowCount + 1 } := if_pos h

theorem overflowStep_of_ne {m : Measurement} (h : m.mode ≠ .frequency) : overflowStep m = m := if_neg h

theorem captureStep_of_frequency {m : Measurement} (h : m.mode = .frequency) (c : Cfg) (n : BitVec 16) :
    captureStep c n m =
      { m with
        average := ema m.average (elapsed n m.lastCapture m.overflowCount) c.shiftFreq
        lastCapture := n
        overflowCount := 0
        captureCount := countCapture m.captureCount } := if_pos h

theorem captureStep_of_ne {m : Measurement} (h : m.mode ≠ .frequency) (c : Cfg) (n : BitVec 16) :
    captureStep c n m = m := if_neg h

/-- What an operation can do to the measurement state: nothing, mode-entry, or the one update that its mode gives a sample or
a timer event (R100, R120, R140). -/
theorem measurementAfter_cases (c : Cfg) (m : Measurement) (i : Instr) :
    measurementAfter c m i = m ∨
    (∃ e, i = .mode e ∧ measurementAfter c m i = enterMode e) ∨
    (∃ x, i = .sample x ∧ m.mode = .dc ∧ measurementAfter c m i = dcStep c x m) ∨
    (∃ x, i = .sample x ∧ (m.mode = .zeroToPeak ∨ m.mode = .peakToPeak) ∧ measurementAfter c m i = peakStep c x m) ∨
    (∃ x, i = .sample x ∧ m.mode = .pseudoRms ∧ measurementAfter c m i = rectStep c x m) ∨
    (i = .overflow ∧ m.mode = .frequency ∧ measurementAfter c m i = overflowStep m) ∨
    (∃ n, i = .capture n ∧ m.mode = .frequency ∧ measurementAfter c m i = captureStep c n m) := by
  cases i with
  | sample x => rcases hm : m.mode <;> simp [measurementAfter, sampleStep, hm]
  | overflow =>
    by_cases hf : m.mode = .frequency
    · simp [measurementAfter, hf]
    · simp [measurementAfter, overflowStep_of_ne hf]
  | capture n =>
    by_cases hf : m.mode = .frequency
    · simp [measurementAfter, hf]
    · simp [measurementAfter, captureStep_of_ne hf]
  | mode e => exact .inr (.inl ⟨e, rfl, rfl⟩)
  | render => exact .inl rfl
  | transmit a v => exact .inl rfl
  | digits value dp => exact .inl rfl
  | errdisp => exact .inl rfl
  | setup => exact .inl rfl

/-! The mode (R11). -/

/-- Only MODE writes the mode, and it stores the mode it names (R11, R140). -/
theorem measurementAfter_mode (c : Cfg) (m : Measurement) (i : Instr) :
    (measurementAfter c m i).mode = m.mode ∨ i = .mode (measurementAfter c m i).mode := by
  obtain hm | ⟨e, rfl, -⟩ | ⟨x, -, -, hm⟩ | ⟨x, -, -, hm⟩ | ⟨x, -, -, hm⟩ | ⟨-, hf, hm⟩ | ⟨n, -, hf, hm⟩ :=
    measurementAfter_cases c m i
  · rw [hm]; exact .inl rfl
  · exact .inr rfl
  · rw [hm]; exact .inl rfl
  · rw [hm]; exact .inl (peakStep_outside c x m).mode
  · rw [hm]; exact .inl rfl
  · rw [hm, overflowStep_of_frequency hf]; exact .inl rfl
  · rw [hm, captureStep_of_frequency hf]; exact .inl rfl

/-- Settles O52: of the three things a step can do to the measurement state, two change the mode. -/
theorem onlyModeOrResetChangesMode : Obligations.OnlyModeOrResetChangesMode := by
  intro s t hstep hne
  obtain hsame | ⟨rest, hrst, -⟩ | ⟨w, i, rest, hw, hd, hm⟩ := step_meas hstep
  · exact absurd (congrArg Measurement.mode hsame) hne
  · exact ⟨rest, .inl hrst⟩
  · obtain hkeep | hmode := measurementAfter_mode s.cfg s.meas i
    · exact absurd (by rw [hm, hkeep]) hne
    · exact ⟨rest, .inr ⟨w, hw, by rw [hd, hm, ← hmode]⟩⟩

/-! The averager stays within any bound of its operands (R92). -/

theorem emaNat_le {a s b : Nat} (ha : a ≤ b) (hs : s ≤ b) (k : Nat) : emaNat a s k ≤ b := by
  have hpow : 1 + (2 ^ k - 1) = 2 ^ k := Nat.add_sub_cancel' Nat.one_le_two_pow
  calc emaNat a s k = s / 2 ^ k + a / 2 ^ k * (2 ^ k - 1) := emaNat_eq a s k
    _ ≤ b / 2 ^ k + b / 2 ^ k * (2 ^ k - 1) :=
      Nat.add_le_add (Nat.div_le_div_right hs) (Nat.mul_le_mul_right _ (Nat.div_le_div_right ha))
    _ = b / 2 ^ k * 2 ^ k := by rw [← mul_one_add, hpow]
    _ ≤ b := Nat.div_mul_le_self b (2 ^ k)

theorem ema_toNat_le {a s : Acc} {b : Nat} (ha : a.toNat ≤ b) (hs : s.toNat ≤ b) (k : BitVec 4) :
    (ema a s k).toNat ≤ b := by
  rw [ema, BitVec.toNat_ofNat]
  exact (Nat.mod_le _ _).trans (emaNat_le ha hs _)

/-- An average of 12-bit operands stays an average of 12-bit operands. -/
theorem ema_zext32_le {a : Acc} (ha : a.toNat ≤ 4095) (x : BitVec 12) (k : BitVec 4) :
    (ema a (zext32 x) k).toNat ≤ 4095 := by
  refine ema_toNat_le ha ?_ k
  rw [zext32_toNat (by norm_num)]
  exact Nat.le_of_lt_succ x.isLt

/-! The bounds of R24 (a) to (d), operation by operation. -/

theorem enterMode_bounds (c : Cfg) (e : Mode) : measBounds c (enterMode e) := by
  simp [enterMode]

theorem atReset_bounds (c : Cfg) : measBounds c .atReset := enterMode_bounds c .dc

section
variable {c : Cfg} {m : Measurement}

theorem dcStep_bounds (h : measBounds c m) (hdc : m.mode = .dc) (x : BitVec 12) : measBounds c (dcStep c x m) := by
  obtain ⟨hmin, hmax, hrect, havg, hcmin, hcmax⟩ := h
  exact ⟨hmin, hmax, hrect, fun _ => ema_zext32_le (havg hdc) x _, hcmin, hcmax⟩

theorem rectStep_bounds (h : measBounds c m) (x : BitVec 12) : measBounds c (rectStep c x m) := by
  obtain ⟨hmin, hmax, hrect, havg, hcmin, hcmax⟩ := h
  exact ⟨hmin, hmax, ema_zext32_le hrect _ _, havg, hcmin, hcmax⟩

theorem foldMinimum_bounds (h : measBounds c m) : measBounds c (foldMinimum c m) := by
  obtain ⟨hmin, hmax, hrect, havg, -, hcmax⟩ := h
  exact ⟨ema_zext32_le hmin _ _, hmax, hrect, havg, le_rfl, hcmax⟩

theorem foldMaximum_bounds (h : measBounds c m) : measBounds c (foldMaximum c m) := by
  obtain ⟨hmin, hmax, hrect, havg, hcmin, -⟩ := h
  exact ⟨hmin, ema_zext32_le hmax _ _, hrect, havg, hcmin, .inr le_rfl⟩

/-- A sample raises the held maximum only from at or above the baseline (R126). -/
theorem raiseMaximum_bounds (h : measBounds c m) {x : BitVec 12} (hx : c.baseline ≤ x) :
    measBounds c (raiseMaximum x m) := by
  obtain ⟨hmin, hmax, hrect, havg, hcmin, hcmax⟩ := h
  rw [raiseMaximum_eq]
  refine ⟨hmin, hmax, hrect, havg, hcmin, ?_⟩
  dsimp only
  split
  · exact .inr hx
  · exact hcmax

/-- The held minimum only falls (R126). -/
theorem lowerMinimum_bounds (h : measBounds c m) (x : BitVec 12) : measBounds c (lowerMinimum x m) := by
  obtain ⟨hmin, hmax, hrect, havg, hcmin, hcmax⟩ := h
  rw [lowerMinimum_eq]
  refine ⟨hmin, hmax, hrect, havg, ?_, hcmax⟩
  dsimp only
  split
  · next hlt => exact (Nat.le_of_lt hlt).trans hcmin
  · exact hcmin

/-- The tracker by its four cases; the bounds do not speak of the polarity it stores at the end. -/
theorem peakStep_bounds (h : measBounds c m) (x : BitVec 12) : measBounds c (peakStep c x m) := by
  by_cases hx : c.baseline ≤ x <;> rcases hp : m.polarity
  · rw [peakStep_rising hx hp]; exact raiseMaximum_bounds (foldMinimum_bounds h) hx
  · rw [peakStep_stay_above hx hp]; exact raiseMaximum_bounds h hx
  · rw [peakStep_stay_below hx hp]; exact lowerMinimum_bounds h x
  · rw [peakStep_falling hx hp]; exact lowerMinimum_bounds (foldMaximum_bounds h) x

theorem overflowStep_bounds (h : measBounds c m) (hf : m.mode = .frequency) : measBounds c (overflowStep m) := by
  rw [overflowStep_of_frequency hf]; exact h

/-- A capture is folded into `average` in mode FREQUENCY, where R24 does not bound it. -/
theorem captureStep_bounds (h : measBounds c m) (hf : m.mode = .frequency) (n : BitVec 16) :
    measBounds c (captureStep c n m) := by
  obtain ⟨hmin, hmax, hrect, -, hcmin, hcmax⟩ := h
  rw [captureStep_of_frequency hf]
  exact ⟨hmin, hmax, hrect, fun hdc => absurd (hf.symm.trans hdc) (by decide), hcmin, hcmax⟩

theorem measurementAfter_bounds (h : measBounds c m) (i : Instr) : measBounds c (measurementAfter c m i) := by
  obtain hm | ⟨e, -, hm⟩ | ⟨x, -, hdc, hm⟩ | ⟨x, -, -, hm⟩ | ⟨x, -, -, hm⟩ | ⟨-, hf, hm⟩ | ⟨n, -, hf, hm⟩ :=
    measurementAfter_cases c m i <;> rw [hm]
  · exact h
  · exact enterMode_bounds c e
  · exact dcStep_bounds h hdc x
  · exact peakStep_bounds h x
  · exact rectStep_bounds h x
  · exact overflowStep_bounds h hf
  · exact captureStep_bounds h hf n

end

/-- Settles O57: every operation keeps the bounds, and so does a reset. -/
theorem stepKeepsMeasBounds : Obligations.StepKeepsMeasBounds := by
  intro s t h hstep
  rw [step_cfg hstep]
  obtain hm | ⟨rest, -, hm⟩ | ⟨w, i, rest, -, -, hm⟩ := step_meas hstep
  · rwa [hm]
  · rw [hm]; exact atReset_bounds s.cfg
  · rw [hm]; exact measurementAfter_bounds h i

/-! The held maximum after a falling fold (R24 (d), R125). -/

/-- A falling fold restarts the held maximum from the baseline, and the sample below it does not raise it. -/
theorem peakStep_falling_currentMaxSample {c : Cfg} {x : BitVec 12} {m : Measurement} (hx : ¬c.baseline ≤ x)
    (hp : m.polarity = .above) : (peakStep c x m).currentMaxSample = c.baseline := by
  rw [peakStep_falling hx hp, lowerMinimum_eq]; rfl

theorem raiseMaximum_currentMaxSample_le (x : BitVec 12) (m : Measurement) :
    m.currentMaxSample.toNat ≤ (raiseMaximum x m).currentMaxSample.toNat := by
  rw [raiseMaximum_eq]
  dsimp only
  split
  · next hlt => exact Nat.le_of_lt hlt
  · exact le_rfl

section
variable {c : Cfg} {m : Measurement} (h : c.baseline.toNat ≤ m.currentMaxSample.toNat)
include h

theorem peakStep_keeps_heldMaximum (x : BitVec 12) : c.baseline.toNat ≤ (peakStep c x m).currentMaxSample.toNat := by
  by_cases hx : c.baseline ≤ x <;> rcases hp : m.polarity
  · rw [peakStep_rising hx hp]; exact h.trans (raiseMaximum_currentMaxSample_le x (foldMinimum c m))
  · rw [peakStep_stay_above hx hp]; exact h.trans (raiseMaximum_currentMaxSample_le x m)
  · rw [peakStep_stay_below hx hp, lowerMinimum_eq]; exact h
  · rw [peakStep_falling_currentMaxSample hx hp]

/-- Of all operations only mode-entry can take the held maximum below the baseline again (R141). -/
theorem measurementAfter_keeps_heldMaximum (i : Instr) :
    c.baseline.toNat ≤ (measurementAfter c m i).currentMaxSample.toNat ∨ ∃ e, i = .mode e := by
  obtain hm | ⟨e, hi, -⟩ | ⟨x, -, -, hm⟩ | ⟨x, -, -, hm⟩ | ⟨x, -, -, hm⟩ | ⟨-, hf, hm⟩ | ⟨n, -, hf, hm⟩ :=
    measurementAfter_cases c m i
  · rw [hm]; exact .inl h
  · exact .inr ⟨e, hi⟩
  · rw [hm]; exact .inl h
  · rw [hm]; exact .inl (peakStep_keeps_heldMaximum h x)
  · rw [hm]; exact .inl h
  · rw [hm, overflowStep_of_frequency hf]; exact .inl h
  · rw [hm, captureStep_of_frequency hf]; exact .inl h

end

theorem step_keeps_heldMaximum {s t : State} (hstep : step s = .next t)
    (h : s.cfg.baseline.toNat ≤ s.meas.currentMaxSample.toNat) :
    s.cfg.baseline.toNat ≤ t.meas.currentMaxSample.toNat ∨
      ∃ rest : List Input, s.inputs = .rst :: rest ∨ ∃ w m, s.inputs = .cmd w :: rest ∧ decode w = .legal (.mode m) := by
  obtain hm | ⟨rest, hrst, -⟩ | ⟨w, i, rest, hw, hd, hm⟩ := step_meas hstep
  · rw [hm]; exact .inl h
  · exact .inr ⟨rest, .inl hrst⟩
  · obtain hkeep | ⟨e, rfl⟩ := measurementAfter_keeps_heldMaximum h i
    · rw [hm]; exact .inl hkeep
    · exact .inr ⟨rest, .inr ⟨w, e, hw, hd⟩⟩

/-- Settles O58: the value at the fold, then its persistence over a step. -/
theorem heldMaximumAfterFold : Obligations.HeldMaximumAfterFold := by
  refine ⟨fun c x m hpeak hp hx => ?_, fun s t => step_keeps_heldMaximum⟩
  rw [sampleStep_peak hpeak, peakStep_falling_currentMaxSample (Nat.not_le_of_lt hx) hp]

end Sys2Proof.Machine
end

section
/-! Ownership (R23): which operation can write each register, and in which mode. -/

namespace Sys2Proof.Machine

/-- S0 to S10 from `m` to `n` under the instruction `i`: a register that changed belongs to the component that ran, or the
operation is MODE (R23). -/
structure MeasurementOwners (m n : Measurement) (i : Instr) : Prop where
  mode : n.mode ≠ m.mode → ∃ e, i = .mode e
  average : n.average ≠ m.average →
    (∃ e, i = .mode e) ∨ (m.mode = .dc ∧ ∃ x, i = .sample x) ∨ (m.mode = .frequency ∧ ∃ c, i = .capture c)
  peak : (n.minAverage ≠ m.minAverage ∨ n.maxAverage ≠ m.maxAverage ∨ n.currentMinSample ≠ m.currentMinSample ∨
      n.currentMaxSample ≠ m.currentMaxSample ∨ n.polarity ≠ m.polarity) →
    (∃ e, i = .mode e) ∨ ((m.mode = .zeroToPeak ∨ m.mode = .peakToPeak) ∧ ∃ x, i = .sample x)
  rectAverage : n.rectAverage ≠ m.rectAverage → (∃ e, i = .mode e) ∨ (m.mode = .pseudoRms ∧ ∃ x, i = .sample x)
  capture : (n.lastCapture ≠ m.lastCapture ∨ n.captureCount ≠ m.captureCount) →
    (∃ e, i = .mode e) ∨ (m.mode = .frequency ∧ ∃ c, i = .capture c)
  overflowCount : n.overflowCount ≠ m.overflowCount →
    (∃ e, i = .mode e) ∨ (m.mode = .frequency ∧ (i = .overflow ∨ ∃ c, i = .capture c))

/-- Each update of the measurement state writes the registers of one component, in the modes of that component. -/
theorem measurementAfter_owners (c : Cfg) (m : Measurement) (i : Instr) :
    MeasurementOwners m (measurementAfter c m i) i := by
  obtain hm | ⟨e, hi, -⟩ | ⟨x, hi, hdc, hm⟩ | ⟨x, hi, hpeak, hm⟩ | ⟨x, hi, hrms, hm⟩ | ⟨hi, hf, hm⟩ | ⟨n, hi, hf, hm⟩ :=
    measurementAfter_cases c m i
  · rw [hm]; constructor <;> simp
  · constructor <;> simp [hi]
  · rw [hm, dcStep_eq]; constructor <;> simp [hi, hdc]
  · have out := peakStep_outside c x m
    rw [hm]
    constructor <;> simp [hi, hpeak, out.mode, out.average, out.rectAverage, out.lastCapture, out.captureCount,
      out.overflowCount]
  · rw [hm, rectStep_eq]; constructor <;> simp [hi, hrms]
  · rw [hm, overflowStep_of_frequency hf]; constructor <;> simp [hi, hf]
  · rw [hm, captureStep_of_frequency hf]; constructor <;> simp [hi, hf]

/-- An operation that sends no transaction leaves the driver, the link and the display registers alone (R23, R49). -/
theorem exec_outside_display {s t : State} {i : Instr} (h : exec i s = .next t) (hi : displayFrames s.cfg i = none) :
    t.drv = s.drv ∧ t.link = s.link ∧ t.disp = s.disp := by
  obtain ⟨x, rfl, rfl⟩ | ⟨rfl, rfl⟩ | ⟨c, rfl, rfl⟩ | ⟨m, rfl, -, rfl⟩ | ⟨rfl, -, rfl⟩ | ⟨a, v, rfl, -, -⟩ |
    ⟨value, dp, rfl, -, -, -⟩ | ⟨value, dp, rfl, -, -⟩ | ⟨rfl, -, -⟩ | ⟨rfl, -, -⟩ := exec_cases h
  · exact ⟨rfl, rfl, rfl⟩
  · exact ⟨rfl, rfl, rfl⟩
  · exact ⟨rfl, rfl, rfl⟩
  · exact ⟨rfl, rfl, rfl⟩
  · exact ⟨rfl, rfl, rfl⟩
  · cases hi
  · cases hi
  · cases hi
  · cases hi
  · cases hi

/-- Settles O51: the owners of S0 to S10, then the frame of the operations that send nothing. -/
theorem registersHaveOneOwner : Obligations.RegistersHaveOneOwner := by
  intro s t i h
  have own : MeasurementOwners s.meas t.meas i := exec_meas h ▸ measurementAfter_owners s.cfg s.meas i
  refine ⟨own.mode, own.average, own.peak, own.rectAverage, own.capture, own.overflowCount, fun hchange => ?_⟩
  by_contra hsome
  obtain ⟨hdrv, hlink, hdisp⟩ := exec_outside_display h (Option.not_isSome_iff_eq_none.1 hsome)
  obtain hne | hne | hne := hchange
  · exact hne hdrv
  · exact hne hlink
  · exact hne hdisp

end Sys2Proof.Machine
end

section
/-! The display driver and the link trace (R19, R20, R24 (f), R44, R170 to R176): every move of the driver, every operation and
a `rst` keep the driver consistent and the trace well framed. -/

namespace Sys2Proof.Machine

/-! What consistency says at each stage of an operation. -/

/-- A driver inside a transaction, or about to begin one, is none of the three fixed drivers of consistency. -/
theorem ne_idle_of_stage {d : Driver} (hfree : d.stage ≠ .free) (hret : ∀ r, d.stage ≠ .returning r) :
    d ≠ Driver.idle ∧ ∀ r, d ≠ { Driver.idle with stage := .returning r } := by
  constructor
  · rintro rfl; exact hfree rfl
  · rintro r rfl; exact hret r rfl

theorem driverConsistent_opening_iff {c : Cfg} {d : Driver} (hs : d.stage = .opening) :
    driverConsistent c d ↔ d.strobe = .high ∧ d.txPhase = .idle ∧ sequenceInRange d := by
  obtain ⟨hidle, hret⟩ := ne_idle_of_stage (d := d) (by simp [hs]) (by simp [hs])
  simp only [driverConsistent, hs, hidle, hret, reduceCtorEq, true_and, false_and, false_or, or_false]

theorem driverConsistent_addressing_iff {c : Cfg} {d : Driver} (hs : d.stage = .addressing) :
    driverConsistent c d ↔ d.strobe = .low ∧ d.txPhase = .idle ∧ sequenceInRange d := by
  obtain ⟨hidle, hret⟩ := ne_idle_of_stage (d := d) (by simp [hs]) (by simp [hs])
  simp only [driverConsistent, hs, hidle, hret, reduceCtorEq, true_and, false_and, false_or, or_false]

theorem driverConsistent_sending_iff {c : Cfg} {d : Driver} (hs : d.stage = .sending) :
    driverConsistent c d ↔ d.strobe = .low ∧ d.txPhase ≠ .idle ∧ sequenceInRange d ∧
      (d.txPhase = .b1Wait ∨ d.txPhase = .b2Wait → d.waited < c.tTimeout) ∧
      (d.txPhase = .b1Gap ∨ d.txPhase = .b2Gap → d.waited < c.tByteGap) := by
  obtain ⟨hidle, hret⟩ := ne_idle_of_stage (d := d) (by simp [hs]) (by simp [hs])
  simp only [driverConsistent, hs, hidle, hret, reduceCtorEq, true_and, false_and, false_or]

/-- Only a transaction of a sequence is followed by another, and its number stays within four bits (R20, R175). -/
theorem sequenceInRange_next {d : Driver} {f : Frame} {later : List Frame} (hq : d.queue = f :: later)
    (h : sequenceInRange d) : (d.seqIdx + 1).toNat + later.length ≤ 8 ∧ d.seqIdx + 1 ≠ 0 := by
  obtain ⟨hlen, -⟩ := h
  rw [hq, List.length_cons] at hlen
  bv_omega

/-! What is framed. -/

@[simp] theorem framingOfDriver_idle : framingOfDriver Driver.idle = .closed := rfl

theorem framingOfDriver_sending {d : Driver} (hs : d.stage = .sending) :
    framingOfDriver d = framingOfPhase d.txPhase := by simp [framingOfDriver, hs]

theorem linkFraming_snoc (l : List LinkEvent) (e : LinkEvent) : linkFraming (l ++ [e]) = framingAfter (linkFraming l) e := by
  simp [linkFraming]

/-- The strobe may be raised wherever a transaction is open (R174, R240). -/
theorem framingAfter_stb1 {f : LinkFraming} (h : f ≠ .closed) : framingAfter (some f) .stb1 = some .closed := by
  cases f with
  | closed => exact absurd rfl h
  | opened => rfl
  | oneByte => rfl
  | twoBytes => rfl

theorem framingOfPhase_ne_closed {p : TxPhase} (h : p ≠ .idle) : framingOfPhase p ≠ .closed := by
  cases p with
  | idle => exact absurd rfl h
  | b1Wait => simp [framingOfPhase]
  | b1Gap => simp [framingOfPhase]
  | b2Wait => simp [framingOfPhase]
  | b2Gap => simp [framingOfPhase]

/-- The strobe is low exactly while the driver stands inside a transaction (R19, R170). -/
theorem driverConsistent_strobe {c : Cfg} {d : Driver} (h : driverConsistent c d) :
    d.strobe = .low ↔ framingOfDriver d ≠ .closed := by
  obtain rfl | rfl | rfl | ⟨hs, hstrobe, -⟩ | ⟨hs, hstrobe, -⟩ | ⟨hs, hstrobe, hphase, -⟩ := h
  · simp [framingOfDriver]
  · simp [framingOfDriver]
  · simp [framingOfDriver]
  · simp [framingOfDriver, hs, hstrobe]
  · simp [framingOfDriver, hs, hstrobe]
  · simp [framingOfDriver, hs, hstrobe, framingOfPhase_ne_closed hphase]

/-- The invariant that the moves of the driver keep: consistent, well framed, and every wait has room for its first poll, which
a legal configuration gives (R2). -/
structure DriverSound (s : State) : Prop where
  timeout_pos : 0 < s.cfg.tTimeout
  consistent : driverConsistent s.cfg s.drv
  framed : linkWellFramed s

/-- The invariant speaks of the configuration, the driver and the link trace only. -/
theorem DriverSound.congr {s t : State} (h : DriverSound s) (hcfg : t.cfg = s.cfg) (hdrv : t.drv = s.drv)
    (hlink : t.link = s.link) : DriverSound t := by
  refine ⟨?_, ?_, ?_⟩
  · rw [hcfg]; exact h.timeout_pos
  · rw [hcfg, hdrv]; exact h.consistent
  · rw [linkWellFramed, hlink, hdrv]; exact h.framed

/-! The moves of the driver, one by one. -/

section
variable {s : State} (h : DriverSound s)
include h

/-- The framing after one more link event, from where the driver stands. -/
theorem DriverSound.framing_snoc (e : LinkEvent) :
    linkFraming (s.link ++ [e]) = framingAfter (some (framingOfDriver s.drv)) e := by
  rw [linkFraming_snoc, h.framed]

theorem DriverSound.framing_stb1 (hs : s.drv.stage = .sending) : linkFraming (s.link ++ [.stb1]) = some .closed := by
  obtain ⟨-, hphase, -⟩ := (driverConsistent_sending_iff hs).1 h.consistent
  rw [h.framing_snoc, framingOfDriver_sending hs]
  exact framingAfter_stb1 (framingOfPhase_ne_closed hphase)

theorem lowerStrobe_sound (hs : s.drv.stage = .opening) : DriverSound (lowerStrobe s) := by
  obtain ⟨-, hphase, hseq⟩ := (driverConsistent_opening_iff hs).1 h.consistent
  rw [lowerStrobe_eq]
  refine ⟨h.timeout_pos, (driverConsistent_addressing_iff rfl).2 ⟨rfl, hphase, hseq⟩, ?_⟩
  simp [linkWellFramed, h.framing_snoc, framingOfDriver, hs, framingAfter]

theorem sendAddressByte_sound (hs : s.drv.stage = .addressing) : DriverSound (sendAddressByte s) := by
  obtain ⟨hstrobe, -, hseq⟩ := (driverConsistent_addressing_iff hs).1 h.consistent
  rw [sendAddressByte_eq]
  refine ⟨h.timeout_pos, (driverConsistent_sending_iff rfl).2 ⟨hstrobe, by simp, hseq, fun _ => h.timeout_pos, by simp⟩, ?_⟩
  simp [linkWellFramed, h.framing_snoc, framingOfDriver, hs, framingAfter, framingOfPhase]

/-- Time passes, or a delay begins: no link event, and the phase stands for the same framing. -/
theorem setPhase_sound (hs : s.drv.stage = .sending) {p : TxPhase} {n : Nat}
    (hp : framingOfPhase p = framingOfPhase s.drv.txPhase) (hwait : p = .b1Wait ∨ p = .b2Wait → n < s.cfg.tTimeout)
    (hgap : p = .b1Gap ∨ p = .b2Gap → n < s.cfg.tByteGap) :
    DriverSound (s.setDriver { s.drv with txPhase := p, waited := n }) := by
  obtain ⟨hstrobe, hphase, hseq, -⟩ := (driverConsistent_sending_iff hs).1 h.consistent
  have hne : p ≠ .idle := by
    rintro rfl
    exact framingOfPhase_ne_closed hphase hp.symm
  refine ⟨h.timeout_pos, Iff.mpr (driverConsistent_sending_iff hs) ⟨hstrobe, hne, hseq, hwait, hgap⟩, ?_⟩
  simpa [linkWellFramed, framingOfDriver, hs, hp] using h.framed

theorem sendValueByte_sound (hs : s.drv.stage = .sending) (hp : s.drv.txPhase = .b1Wait ∨ s.drv.txPhase = .b1Gap) :
    DriverSound (sendValueByte s) := by
  obtain ⟨hstrobe, -, hseq, -⟩ := (driverConsistent_sending_iff hs).1 h.consistent
  have hone : framingOfPhase s.drv.txPhase = .oneByte := by rcases hp with hp | hp <;> rw [hp] <;> rfl
  rw [sendValueByte_eq]
  refine ⟨h.timeout_pos,
    Iff.mpr (driverConsistent_sending_iff hs) ⟨hstrobe, by simp, hseq, fun _ => h.timeout_pos, by simp⟩, ?_⟩
  rw [linkWellFramed, h.framing_snoc, framingOfDriver_sending hs, hone, framingOfDriver_sending (by exact hs)]
  rfl

theorem failTransaction_sound (hs : s.drv.stage = .sending) : DriverSound (failTransaction s) := by
  rw [failTransaction_eq]
  exact ⟨h.timeout_pos, .inr (.inr (.inl rfl)), h.framing_stb1 hs⟩

theorem commitTransaction_sound (hs : s.drv.stage = .sending) : DriverSound (commitTransaction s) := by
  obtain ⟨-, -, hseq, -⟩ := (driverConsistent_sending_iff hs).1 h.consistent
  rcases hq : s.drv.queue with _ | ⟨f, later⟩
  · rw [commitTransaction_last hq]
    exact ⟨h.timeout_pos, .inr (.inl rfl), h.framing_stb1 hs⟩
  · rw [commitTransaction_next hq]
    obtain ⟨hlen, hne⟩ := sequenceInRange_next hq hseq
    exact ⟨h.timeout_pos, (driverConsistent_opening_iff rfl).2 ⟨rfl, rfl, hlen, fun h0 => absurd h0 hne⟩, h.framing_stb1 hs⟩

theorem finishDisplay_sound {r : Result} (hs : s.drv.stage = .returning r) : DriverSound (finishDisplay r s) := by
  have hclosed := h.framed
  rw [linkWellFramed, framingOfDriver, hs] at hclosed
  exact ⟨h.timeout_pos, .inl rfl, hclosed⟩

theorem transactionTick_sound (hs : s.drv.stage = .sending) (d : Bool) : DriverSound (transactionTick d s) := by
  obtain ⟨-, ht⟩ | ⟨hp, -, hw, ht⟩ | ⟨-, -, -, ht⟩ | ⟨hp, -, hgap, ht⟩ | ⟨hp, -, hgap, ht⟩ | ⟨hp, hw, ht⟩ | ⟨hp, ht⟩ |
    ⟨-, ht⟩ := transactionTick_cases d s <;> rw [ht]
  · exact h
  · exact setPhase_sound h hs rfl (fun _ => hw) (fun hg => by rcases hp with hp | hp <;> simp [hp] at hg)
  · exact failTransaction_sound h hs
  · exact setPhase_sound h hs (by rw [hp]; rfl) (by simp) (fun _ => hgap)
  · exact setPhase_sound h hs (by rw [hp]; rfl) (by simp) (fun _ => hgap)
  · exact setPhase_sound h hs rfl (fun hg => by rcases hp with hp | hp <;> simp [hp] at hg) (fun _ => hw)
  · exact sendValueByte_sound h hs (hp.imp And.left And.left)
  · exact commitTransaction_sound h hs

theorem driverTick_sound (d : Bool) : DriverSound (driverTick d s) := by
  obtain ⟨-, ht⟩ | ⟨hs, ht⟩ | ⟨hs, ht⟩ | ⟨hs, ht⟩ | ⟨r, hs, ht⟩ := driverTick_cases d s <;> rw [ht]
  · exact h
  · exact lowerStrobe_sound h hs
  · exact sendAddressByte_sound h hs
  · exact transactionTick_sound h hs d
  · exact finishDisplay_sound h hs

/-- A `rst` closes what is open (R240). -/
theorem applyReset_sound : DriverSound (applyReset s) := by
  refine ⟨h.timeout_pos, .inl rfl, ?_⟩
  by_cases hclosed : framingOfDriver s.drv = .closed
  · have hstrobe : ¬s.drv.strobe = .low := by simpa [driverConsistent_strobe h.consistent] using hclosed
    simpa [linkWellFramed, applyReset, hstrobe, hclosed] using h.framed
  · have hstrobe : s.drv.strobe = .low := (driverConsistent_strobe h.consistent).2 hclosed
    simp only [linkWellFramed, applyReset, hstrobe, if_true]
    rw [h.framing_snoc, framingAfter_stb1 hclosed]
    rfl

/-! Operations. -/

theorem prepareTransaction_sound (hs : s.drv.stage = .free) (f : Frame) {later : List Frame} {idx : BitVec 4}
    (hlen : idx.toNat + later.length ≤ 8) (hzero : idx = 0 → later = []) :
    DriverSound (prepareTransaction f later idx s) := by
  have hclosed := h.framed
  rw [linkWellFramed, framingOfDriver, hs] at hclosed
  exact ⟨h.timeout_pos, (driverConsistent_opening_iff rfl).2 ⟨rfl, rfl, hlen, hzero⟩, hclosed⟩

theorem startTransmit_sound (hs : s.drv.stage = .free) (f : Frame) : DriverSound (startTransmit f s) :=
  driveDisplay_induction (P := DriverSound) (fun _ _ ht => ht.congr rfl rfl rfl)
    (fun d _ ht => driverTick_sound ht d) _ _ (prepareTransaction_sound h hs f (by simp) fun _ => rfl)

theorem startSequence_sound (hs : s.drv.stage = .free) {frames : List Frame} (hlen : frames.length ≤ 8) :
    DriverSound (startSequence frames s) := by
  refine startSequence_induction (P := DriverSound) (fun _ _ ht => ht.congr rfl rfl rfl)
    (fun d _ ht => driverTick_sound ht d) (h.congr rfl rfl rfl) ?_
  rintro f later rfl
  rw [List.length_cons] at hlen
  exact prepareTransaction_sound h hs f (by simpa [Nat.add_comm] using hlen) (by simp)

theorem exec_sound {i : Instr} {t : State} (he : exec i s = .next t) : DriverSound t := by
  obtain ⟨x, -, rfl⟩ | ⟨-, rfl⟩ | ⟨c, -, rfl⟩ | ⟨m, -, -, rfl⟩ | ⟨-, -, rfl⟩ | ⟨a, v, -, hs, rfl⟩ |
    ⟨value, dp, -, -, hs, rfl⟩ | ⟨value, dp, -, -, rfl⟩ | ⟨-, hs, rfl⟩ | ⟨-, hs, rfl⟩ := exec_cases he
  · exact h.congr rfl rfl rfl
  · exact h.congr rfl rfl rfl
  · exact h.congr rfl rfl rfl
  · exact h.congr rfl rfl rfl
  · exact h.congr rfl rfl rfl
  · exact startTransmit_sound h hs _
  · exact startSequence_sound h hs (by rw [digitFrames_length])
  · exact h.congr rfl rfl rfl
  · exact startSequence_sound h hs (by rw [errorFrames_length]; norm_num)
  · exact startSequence_sound h hs (by rw [setupFrames_length]; omega)

end

/-- Every step keeps the invariant, whatever input it takes. -/
theorem step_sound {s t : State} (h : DriverSound s) (hstep : step s = .next t) : DriverSound t := by
  have hin (rest : List Input) : DriverSound { s with inputs := rest } := h.congr rfl rfl rfl
  obtain ⟨-, ⟨-, rfl⟩ | ⟨d, rest, -, rfl⟩ | ⟨rest, -, rfl⟩ | ⟨w, i, rest, -, -, he⟩ | ⟨w, e, rest, -, -, rfl⟩⟩ :=
    step_cases hstep
  · exact h
  · exact driverTick_sound (hin rest) d
  · exact applyReset_sound (hin rest)
  · exact exec_sound (hin rest) he
  · exact h.congr rfl rfl rfl

/-! Between the falling strobe and the address byte. -/

/-- While the driver is busy no operation that is accepted puts anything on the link: the display operations are not
accepted (R217). -/
theorem exec_link_of_busy {s t : State} {i : Instr} (hs : s.drv.stage ≠ .free) (h : exec i s = .next t) :
    t.link = s.link := by
  obtain ⟨x, -, rfl⟩ | ⟨-, rfl⟩ | ⟨c, -, rfl⟩ | ⟨m, -, hf, -⟩ | ⟨-, hf, -⟩ | ⟨a, v, -, hf, -⟩ | ⟨value, dp, -, -, hf, -⟩ |
    ⟨value, dp, -, -, rfl⟩ | ⟨-, hf, -⟩ | ⟨-, hf, -⟩ := exec_cases h
  · rfl
  · rfl
  · rfl
  · exact absurd hf hs
  · exact absurd hf hs
  · exact absurd hf hs
  · exact absurd hf hs
  · rfl
  · exact absurd hf hs
  · exact absurd hf hs

/-- With the strobe low and no byte sent yet, a step that is no `rst` leaves the trace as it is or sends the address byte
(R171). -/
theorem step_link_of_addressing {s t : State} (hs : s.drv.stage = .addressing)
    (hrst : ∀ rest : List Input, s.inputs ≠ .rst :: rest) (hstep : step s = .next t) :
    t.link = s.link ∨ t.link = s.link ++ [.byte s.drv.frame.addr] := by
  obtain ⟨-, ⟨-, rfl⟩ | ⟨d, rest, -, rfl⟩ | ⟨rest, hr, -⟩ | ⟨w, i, rest, -, -, he⟩ | ⟨w, e, rest, -, -, rfl⟩⟩ :=
    step_cases hstep
  · exact .inl rfl
  · right; simp [driverTick, hs, sendAddressByte_eq]
  · exact absurd hr (hrst rest)
  · have hlink := exec_link_of_busy (by simp [hs]) he
    exact .inl hlink
  · exact .inl rfl

/-- Settles O59: the invariant of the driver over a step, then the two outcomes while the address byte is awaited. -/
theorem stepKeepsDriverAndFraming : Obligations.StepKeepsDriverAndFraming := by
  intro s t hcons hframed hstep
  obtain ⟨-, -, -, -, -, -, -, -, htimeout, -⟩ := (cfgLegal_iff s.cfg).1 (step_cases hstep).1
  have sound := step_sound ⟨htimeout, hcons, hframed⟩ hstep
  exact ⟨sound.consistent, sound.framed, fun hs hrst => step_link_of_addressing hs hrst hstep⟩

end Sys2Proof.Machine
end

section
/-! The state right after reset (R25): its registers, and the base case of the invariants. -/

namespace Sys2Proof.Machine

/-- With the driver idle MODE is accepted, and it touches neither the driver nor anything but S0 to S10 (R140, R142). -/
theorem exec_mode_of_idle {s : State} (hs : s.drv.stage = .free) (m : Mode) :
    exec (.mode m) s = .next ((s.setMeas (enterMode m)).respond okDone) := whenReady_of_idle hs _

/-- Settles O53. -/
theorem resetValues : Obligations.ResetValues :=
  ⟨rfl, rfl, rfl, rfl, ⟨_, exec_mode_of_idle rfl .dc, rfl, rfl⟩, fun _ => rfl⟩

/-- Settles O56: zeroed registers are within every bound, the driver is idle, the trace and the display space are empty. -/
theorem invariantsAtReset : Obligations.InvariantsAtReset :=
  fun c => ⟨atReset_bounds c, .inl rfl, rfl, DisplaySpace.atPowerOn_wf⟩

end Sys2Proof.Machine
end

section
/-! The display register space and the outputs (R40, R43, R44, R47): what one move of the driver can do to each, carried through
the moves an operation runs through, and then through a step. -/

namespace Sys2Proof.Machine

/-- An operation that answers a next state is a handler operation, one that responds at once, or a display operation that
prepares its first transaction and lets the driver run. -/
theorem exec_kinds {i : Instr} {s t : State} (h : exec i s = .next t) :
    (∃ m, t = (s.setMeas m).handlerDone) ∨ (∃ m r, t = (s.setMeas m).respond r) ∨
    (∃ f later idx, s.drv.stage = .free ∧ t = driveDisplay s.inputs (prepareTransaction f later idx s)) := by
  have hseq (frames : List Frame) (hs : s.drv.stage = .free) (ht : t = startSequence frames s) :
      (∃ m r, t = (s.setMeas m).respond r) ∨
      (∃ f later idx, s.drv.stage = .free ∧ t = driveDisplay s.inputs (prepareTransaction f later idx s)) := by
    cases frames with
    | nil => exact .inl ⟨s.meas, okDone, ht⟩
    | cons f later => exact .inr ⟨f, later, 1, hs, ht⟩
  obtain ⟨x, -, rfl⟩ | ⟨-, rfl⟩ | ⟨c, -, rfl⟩ | ⟨m, -, -, rfl⟩ | ⟨-, -, rfl⟩ | ⟨a, v, -, hs, rfl⟩ |
    ⟨value, dp, -, -, hs, ht⟩ | ⟨value, dp, -, -, rfl⟩ | ⟨-, hs, ht⟩ | ⟨-, hs, ht⟩ := exec_cases h
  · exact .inl ⟨_, rfl⟩
  · exact .inl ⟨_, rfl⟩
  · exact .inl ⟨_, rfl⟩
  · exact .inr (.inl ⟨_, _, rfl⟩)
  · exact .inr (.inl ⟨s.meas, _, rfl⟩)
  · exact .inr (.inr ⟨_, _, _, hs, rfl⟩)
  · exact .inr (hseq _ hs ht)
  · exact .inr (.inl ⟨s.meas, _, rfl⟩)
  · exact .inr (hseq _ hs ht)
  · exact .inr (hseq _ hs ht)

/-! The display registers. -/

theorem commitTransaction_disp (s : State) :
    (commitTransaction s).disp = s.disp.write (displayAddress s.drv.frame.addr) s.drv.frame.value := by
  rcases hq : s.drv.queue with _ | ⟨f, later⟩
  · rw [commitTransaction_last hq]
  · rw [commitTransaction_next hq]

/-- A move of the driver leaves the display registers alone, loses them, or writes the one its transaction addresses
(R41, R43, R174). -/
theorem driverTick_disp (d : Bool) (s : State) :
    (driverTick d s).disp = s.disp ∨ (driverTick d s).disp = s.disp.lose ∨
    (driverTick d s).disp = s.disp.write (displayAddress s.drv.frame.addr) s.drv.frame.value := by
  obtain ⟨-, h⟩ | ⟨-, h⟩ | ⟨-, h⟩ | ⟨-, h⟩ | ⟨r, -, h⟩ := driverTick_cases d s <;> rw [h]
  · exact .inl rfl
  · exact .inl rfl
  · exact .inl rfl
  · obtain ⟨-, h⟩ | ⟨-, -, -, h⟩ | ⟨-, -, -, h⟩ | ⟨-, -, -, h⟩ | ⟨-, -, -, h⟩ | ⟨-, -, h⟩ | ⟨-, h⟩ | ⟨-, h⟩ :=
      transactionTick_cases d s <;> rw [h]
    · exact .inl rfl
    · exact .inl rfl
    · exact .inr (.inl rfl)
    · exact .inl rfl
    · exact .inl rfl
    · exact .inl rfl
    · exact .inl rfl
    · exact .inr (.inr (commitTransaction_disp s))
  · exact .inl rfl

/-- A write is to one of the sixteen addresses, because only the low four bits of the address byte select (R40, R46). -/
theorem driverTick_disp_wf {s : State} (h : s.disp.wf = true) (d : Bool) : (driverTick d s).disp.wf = true := by
  obtain hd | hd | hd := driverTick_disp d s <;> rw [hd]
  · exact h
  · exact DisplaySpace.lose_wf _
  · exact DisplaySpace.write_wf h (displayAddress_lt _)

theorem applyReset_disp_wf {s : State} (h : s.disp.wf = true) : (applyReset s).disp.wf = true := by
  unfold applyReset
  split
  · exact h
  · exact DisplaySpace.lose_wf _

theorem exec_disp_wf {i : Instr} {s t : State} (h : s.disp.wf = true) (he : exec i s = .next t) : t.disp.wf = true := by
  obtain ⟨m, rfl⟩ | ⟨m, r, rfl⟩ | ⟨f, later, idx, -, rfl⟩ := exec_kinds he
  · exact h
  · exact h
  · exact driveDisplay_induction (P := fun u => u.disp.wf = true) (fun _ _ hu => hu)
      (fun d _ hu => driverTick_disp_wf hu d) _ _ h

/-- Settles O60: whatever input the step takes, the registers are kept, lost, or written at an address below 16. -/
theorem stepKeepsDisplayRegisters : Obligations.StepKeepsDisplayRegisters := by
  intro s t h hstep
  obtain ⟨-, ⟨-, rfl⟩ | ⟨d, rest, -, rfl⟩ | ⟨rest, -, rfl⟩ | ⟨w, i, rest, -, -, he⟩ | ⟨w, e, rest, -, -, rfl⟩⟩ :=
    step_cases hstep
  · exact h
  · exact driverTick_disp_wf (s := { s with inputs := rest }) h d
  · exact applyReset_disp_wf (s := { s with inputs := rest }) h
  · exact exec_disp_wf (s := { s with inputs := rest }) h he
  · exact h

/-! The link trace and the responses. -/

@[simp] theorem driverTick_free {s : State} (h : s.drv.stage = .free) (d : Bool) : driverTick d s = s := by
  simp [driverTick, h]

/-- What was sent stays sent, and at most one response is added. -/
structure OutputsGrow (s t : State) : Prop where
  link : s.link <+: t.link
  responses : t.responses = s.responses ∨ ∃ w, t.responses = s.responses ++ [w]

/-- The outputs do not depend on what is still to be presented. -/
theorem OutputsGrow.of_inputs {s t : State} {ins : List Input} (h : OutputsGrow { s with inputs := ins } t) :
    OutputsGrow s t := ⟨h.link, h.responses⟩

theorem transactionTick_responses (d : Bool) (s : State) : (transactionTick d s).responses = s.responses := by
  obtain ⟨-, h⟩ | ⟨-, -, -, h⟩ | ⟨-, -, -, h⟩ | ⟨-, -, -, h⟩ | ⟨-, -, -, h⟩ | ⟨-, -, h⟩ | ⟨-, h⟩ | ⟨-, h⟩ :=
    transactionTick_cases d s <;> rw [h]
  · rfl
  · rfl
  · rfl
  · rfl
  · rfl
  · rfl
  · rcases hq : s.drv.queue with _ | ⟨f, later⟩
    · rw [commitTransaction_last hq]
    · rw [commitTransaction_next hq]

/-- A move that gives a response leaves the driver idle (R49, R170). -/
theorem driverTick_responses (d : Bool) (s : State) :
    (driverTick d s).responses = s.responses ∨
    ((driverTick d s).drv.stage = .free ∧ ∃ w, (driverTick d s).responses = s.responses ++ [w]) := by
  obtain ⟨-, h⟩ | ⟨-, h⟩ | ⟨-, h⟩ | ⟨-, h⟩ | ⟨r, -, h⟩ := driverTick_cases d s <;> rw [h]
  · exact .inl rfl
  · exact .inl rfl
  · exact .inl rfl
  · exact .inl (transactionTick_responses d s)
  · exact .inr ⟨rfl, _, rfl⟩

theorem driverTick_outputs (d : Bool) (s : State) : OutputsGrow s (driverTick d s) := by
  obtain ⟨-, hlink, hresp⟩ := driverTick_move d s
  refine ⟨?_, hresp⟩
  obtain hl | ⟨e, hl⟩ := hlink
  · rw [hl]
  · rw [hl]; exact List.prefix_append _ _

/-- The moves an operation runs through append to the trace one after the other. -/
theorem driveDisplay_link (ins : List Input) (s : State) : s.link <+: (driveDisplay ins s).link :=
  driveDisplay_induction (P := fun t => s.link <+: t.link) (fun _ _ h => h)
    (fun d t h => h.trans (driverTick_outputs d t).link) ins s (List.prefix_refl _)

/-- Once the driver has returned it takes no further tick, so an operation responds at most once (R170). -/
theorem driveDisplay_responses (ins : List Input) (s : State) :
    (driveDisplay ins s).responses = s.responses ∨ ∃ w, (driveDisplay ins s).responses = s.responses ++ [w] := by
  have h := driveDisplay_induction
    (P := fun t => t.responses = s.responses ∨ (t.drv.stage = .free ∧ ∃ w, t.responses = s.responses ++ [w]))
    (fun _ _ h => h) (fun d t h => ?_) ins s (.inl rfl)
  · exact h.imp_right And.right
  · obtain h | ⟨hfree, h⟩ := h
    · rw [← h]; exact driverTick_responses d t
    · rw [driverTick_free hfree]; exact .inr ⟨hfree, h⟩

/-- A `rst` puts at most the rising strobe on the link and responds nothing (R240, R263). -/
theorem applyReset_outputs (s : State) : OutputsGrow s (applyReset s) := by
  refine ⟨?_, .inl rfl⟩
  by_cases hs : s.drv.strobe = .low
  · simp [applyReset, hs]
  · simp [applyReset, hs]

theorem exec_outputs {i : Instr} {s t : State} (he : exec i s = .next t) : OutputsGrow s t := by
  obtain ⟨m, rfl⟩ | ⟨m, r, rfl⟩ | ⟨f, later, idx, -, rfl⟩ := exec_kinds he
  · exact ⟨List.prefix_refl _, .inl rfl⟩
  · exact ⟨List.prefix_refl _, .inr ⟨_, rfl⟩⟩
  · exact ⟨driveDisplay_link s.inputs (prepareTransaction f later idx s),
      driveDisplay_responses s.inputs (prepareTransaction f later idx s)⟩

theorem step_outputs {s t : State} (hstep : step s = .next t) : OutputsGrow s t := by
  obtain ⟨-, ⟨-, rfl⟩ | ⟨d, rest, -, rfl⟩ | ⟨rest, -, rfl⟩ | ⟨w, i, rest, -, -, he⟩ | ⟨w, e, rest, -, -, rfl⟩⟩ :=
    step_cases hstep
  · exact ⟨List.prefix_refl _, .inl rfl⟩
  · exact (driverTick_outputs d _).of_inputs
  · exact (applyReset_outputs _).of_inputs
  · exact (exec_outputs he).of_inputs
  · exact ⟨List.prefix_refl _, .inr ⟨_, rfl⟩⟩

/-- A step that takes a tick is one move of the driver. -/
theorem step_tick {s : State} (hc : cfgLegal s.cfg = true) {d : Bool} {rest : List Input} (hi : s.inputs = .tick d :: rest) :
    step s = .next (driverTick d { s with inputs := rest }) := by
  simp [step, stepInputs, hc, hi, acceptInput]

/-- Settles O50: what a step appends, and that a tick is one move of the driver. -/
theorem outputsOnlyGrow : Obligations.OutputsOnlyGrow := by
  intro s t hstep
  obtain ⟨⟨trace, htrace⟩, hresp⟩ := step_outputs hstep
  refine ⟨⟨trace, htrace.symm⟩, hresp, fun d rest hi => ?_⟩
  rw [step_tick (step_cases hstep).1 hi] at hstep
  cases hstep
  exact (driverTick_move d { s with inputs := rest }).link

end Sys2Proof.Machine
end

section
/-! A display operation against the blocking procedure (R171 to R184): one transaction for each of the three ways its two waits
can end, then the induction over the transactions, then SETUP run twice (R50). -/

namespace Sys2Proof.Machine

/-! One transaction, from its preparation, with a wait that starts at 0 polls. -/

section
variable {s : State}

/-- The address byte is confirmed: the driver has issued the value byte (R171). -/
theorem driveDisplay_addressDone (f : Frame) (later : List Frame) (idx : BitVec 4) {l : Nat} (hl : l < s.cfg.tTimeout)
    (rest : List Input) :
    driveDisplay (openingInputs ++ (answerInputs s.cfg (.done l) ++ rest)) (prepareTransaction f later idx s) =
      driveDisplay rest (sendValueByte (sendAddressByte (lowerStrobe (prepareTransaction f later idx s)))) := by
  rw [driveDisplay_opening]
  exact driveDisplay_firstDone l (sendAddressByte (lowerStrobe (prepareTransaction f later idx s))) rest rfl rfl
    ((Nat.zero_add l).trans_lt hl)

/-- Both bytes are confirmed: the transaction is committed (R171). -/
theorem driveDisplay_committed (f : Frame) (later : List Frame) (idx : BitVec 4) {l l' : Nat} (hl : l < s.cfg.tTimeout)
    (hl' : l' < s.cfg.tTimeout) (rest : List Input) :
    driveDisplay (openingInputs ++ (answerInputs s.cfg (.done l) ++ (answerInputs s.cfg (.done l') ++ rest)))
        (prepareTransaction f later idx s) =
      driveDisplay rest
        (commitTransaction (sendValueByte (sendAddressByte (lowerStrobe (prepareTransaction f later idx s))))) := by
  rw [driveDisplay_addressDone f later idx hl]
  exact driveDisplay_secondDone l' (sendValueByte (sendAddressByte (lowerStrobe (prepareTransaction f later idx s)))) rest
    rfl rfl ((Nat.zero_add l').trans_lt hl')

/-- The address byte is never confirmed: the transaction fails (R174). -/
theorem driveDisplay_addressNever (f : Frame) (later : List Frame) (idx : BitVec 4) (ht : 0 < s.cfg.tTimeout)
    (rest : List Input) :
    driveDisplay (openingInputs ++ (answerInputs s.cfg .never ++ rest)) (prepareTransaction f later idx s) =
      driveDisplay rest (failTransaction (sendAddressByte (lowerStrobe (prepareTransaction f later idx s)))) := by
  rw [driveDisplay_opening]
  exact driveDisplay_never _ _ rest rfl (.inl rfl) ht (Nat.zero_add _)

/-- The value byte is never confirmed: the transaction fails (R174). -/
theorem driveDisplay_valueNever (f : Frame) (later : List Frame) (idx : BitVec 4) {l : Nat} (hl : l < s.cfg.tTimeout)
    (rest : List Input) :
    driveDisplay (openingInputs ++ (answerInputs s.cfg (.done l) ++ (answerInputs s.cfg .never ++ rest)))
        (prepareTransaction f later idx s) =
      driveDisplay rest
        (failTransaction (sendValueByte (sendAddressByte (lowerStrobe (prepareTransaction f later idx s))))) := by
  rw [driveDisplay_addressDone f later idx hl]
  exact driveDisplay_never _ _ rest rfl (.inr rfl) (by omega) (Nat.zero_add _)

end

/-! The moves of an operation, one transaction at a time. -/

theorem operationInputs_one (c : Cfg) (a : Answer) (rest : List Input) :
    operationInputs c [a] ++ rest = openingInputs ++ (answerInputs c a ++ (.tick false :: rest)) := by
  simp [operationInputs, transactionInputs]

theorem operationInputs_two (c : Cfg) (a b : Answer) (later : List Answer) (rest : List Input) :
    operationInputs c (a :: b :: later) ++ rest =
      openingInputs ++ (answerInputs c a ++ (answerInputs c b ++ (operationInputs c later ++ rest))) := by
  simp [operationInputs, transactionInputs]

/-! The whole operation. -/

/-- The state in which a display operation that did `b` on the link and the display registers has returned `r`, with `rest` still
to be presented (R170, R179). -/
def State.returned (s : State) (b : List LinkEvent × DisplaySpace × Option Result) (r : Result) (rest : List Input) : State :=
  { s with
    drv := Driver.idle
    link := s.link ++ b.1
    disp := b.2.1
    inputs := rest
    responses := s.responses ++ [responseWord r] }

/-- The state before the rest of an operation, one transaction of which was sent and committed. -/
def State.committed (s : State) (f : Frame) : State :=
  { s with
    link := s.link ++ transactionTrace f
    disp := s.disp.write (displayAddress f.addr) f.value }

/-- Returning right after the last link event. -/
theorem driveDisplay_returned (r : Result) (s : State) (b : List LinkEvent × DisplaySpace × Option Result) (rest : List Input) :
    driveDisplay (.tick false :: rest) (leaveLink r { s with link := s.link ++ b.1, disp := b.2.1 }) = s.returned b r rest :=
  driveDisplay_return r false _ rest

/-- From the preparation of a transaction, with these answers presented, the driver gives what the blocking procedure gives over
that transaction and those after it. -/
def RefinesBlocking (f : Frame) (later : List Frame) (idx : BitVec 4) (answers : List Answer) (s : State) : Prop :=
  ∃ r, (blockingRun (f :: later) answers s.disp).2.2 = some r ∧ ∀ rest : List Input,
    driveDisplay (operationInputs s.cfg answers ++ rest) (prepareTransaction f later idx s) =
      s.returned (blockingRun (f :: later) answers s.disp) r rest

section
variable {s : State}

theorem refinesBlocking_addressNever (f : Frame) (later : List Frame) (idx : BitVec 4) (ht : 0 < s.cfg.tTimeout) :
    RefinesBlocking f later idx [.never] s := by
  refine ⟨.timeout, rfl, fun rest => ?_⟩
  rw [operationInputs_one, driveDisplay_addressNever f later idx ht, fail_first]
  exact driveDisplay_returned _ s (blockingRun (f :: later) [.never] s.disp) rest

theorem refinesBlocking_valueNever (f : Frame) (later : List Frame) (idx : BitVec 4) {l : Nat} (hl : l < s.cfg.tTimeout) :
    RefinesBlocking f later idx [.done l, .never] s := by
  refine ⟨.timeout, rfl, fun rest => ?_⟩
  rw [operationInputs_two, driveDisplay_valueNever f later idx hl, fail_second]
  exact driveDisplay_returned _ s (blockingRun (f :: later) [.done l, .never] s.disp) rest

theorem refinesBlocking_last (f : Frame) (idx : BitVec 4) {l l' : Nat} (hl : l < s.cfg.tTimeout)
    (hl' : l' < s.cfg.tTimeout) : RefinesBlocking f [] idx [.done l, .done l'] s := by
  refine ⟨okDone, rfl, fun rest => ?_⟩
  rw [operationInputs_two, driveDisplay_committed f [] idx hl hl', commit_last]
  exact driveDisplay_return okDone false (s.committed f) rest

/-- A committed transaction, and then what the blocking procedure gives over the others. -/
theorem refinesBlocking_next (f g : Frame) (later : List Frame) (idx : BitVec 4) {l l' : Nat} {answers : List Answer}
    (hl : l < s.cfg.tTimeout) (hl' : l' < s.cfg.tTimeout)
    (hnext : RefinesBlocking g later (idx + 1) answers (s.committed f)) :
    RefinesBlocking f (g :: later) idx (.done l :: .done l' :: answers) s := by
  obtain ⟨r, hr, hrest⟩ := hnext
  refine ⟨r, hr, fun rest => ?_⟩
  rw [operationInputs_two, driveDisplay_committed f (g :: later) idx hl hl', commit_next]
  refine (hrest rest).trans ?_
  simp [State.returned, State.committed, blockingRun_transaction]

end

/-- The induction over the transactions, by how the waits of the first one end (R171, R174, R179). -/
theorem driveDisplay_refinesBlocking (later : List Frame) : ∀ (f : Frame) (idx : BitVec 4) (s : State) (given : List Answer),
    0 < s.cfg.tTimeout → (∀ a ∈ given, a.inBound s.cfg = true) →
    RefinesBlocking f later idx (scriptAnswers (2 * (f :: later).length) given) s := by
  induction later with
  | nil =>
    intro f idx s given ht hb
    obtain h | ⟨l, hl, h⟩ | ⟨l, l', given', hl, hl', -, h⟩ := scriptAnswers_transaction s.cfg ht 0 given hb <;>
      rw [List.length_singleton, Nat.mul_one, ← Nat.zero_add 2, h]
    · exact refinesBlocking_addressNever f [] idx ht
    · exact refinesBlocking_valueNever f [] idx hl
    · exact refinesBlocking_last f idx hl hl'
  | cons g later ih =>
    intro f idx s given ht hb
    obtain h | ⟨l, hl, h⟩ | ⟨l, l', given', hl, hl', hb', h⟩ :=
      scriptAnswers_transaction s.cfg ht (2 * (g :: later).length) given hb <;>
      rw [List.length_cons, Nat.mul_succ, h]
    · exact refinesBlocking_addressNever f _ idx ht
    · exact refinesBlocking_valueNever f _ idx hl
    · exact refinesBlocking_next f g later idx hl hl' (ih g (idx + 1) (s.committed f) given' ht hb')

/-- An accepted display operation prepares its first transaction and lets the driver run, and the driver, given the operation's
answers, does what the blocking procedure does. -/
theorem exec_refinesBlocking {s : State} {i : Instr} {frames : List Frame} {given : List Answer} (hc : cfgLegal s.cfg = true)
    (hs : s.drv.stage = .free) (hw : i.wellFormed = true) (hf : displayFrames s.cfg i = some frames)
    (hb : ∀ a ∈ given, a.inBound s.cfg = true) :
    ∃ f later idx, frames = f :: later ∧ RefinesBlocking f later idx (scriptAnswers (2 * frames.length) given) s ∧
      exec i s = .next (driveDisplay s.inputs (prepareTransaction f later idx s)) := by
  obtain ⟨-, -, -, -, -, -, -, -, ht, -⟩ := (cfgLegal_iff s.cfg).1 hc
  cases frames with
  | nil => exact absurd rfl (displayFrames_ne_nil hc hf)
  | cons f later => exact ⟨f, later, _, rfl, driveDisplay_refinesBlocking later f _ s given ht hb, exec_display hs hw hf⟩

/-- Settles O40: the driver over the operation's transactions, from the first one that `exec` prepares. -/
theorem displayRefinesBlockingProcedure : Obligations.DisplayRefinesBlockingProcedure := by
  intro s i frames given rest hc hs hw hf hb answers hi
  obtain ⟨f, later, idx, rfl, ⟨r, hr, hrest⟩, he⟩ := exec_refinesBlocking hc hs hw hf hb
  exact ⟨r, hr, by rw [he, hi, hrest]; rfl⟩

/-! Every wait ending with `done`. -/

/-- The display registers after a list of committed transactions (R41). -/
def DisplaySpace.writeFrames (d : DisplaySpace) (frames : List Frame) : DisplaySpace :=
  frames.foldl (fun e f => e.write (displayAddress f.addr) f.value) d

theorem DisplaySpace.writeFrames_cons (d : DisplaySpace) (f : Frame) (fs : List Frame) :
    d.writeFrames (f :: fs) = (d.write (displayAddress f.addr) f.value).writeFrames fs := rfl

/-- The blocking procedure when no wait times out: every transaction in full, every register written, Ok. -/
theorem blockingRun_allDone (frames : List Frame) : ∀ (lates : List Nat) (d : DisplaySpace),
    lates.length = 2 * frames.length →
    blockingRun frames (lates.map .done) d = (frames.flatMap transactionTrace, d.writeFrames frames, some okDone) := by
  induction frames with
  | nil =>
    exact fun _ _ _ => rfl
  | cons f fs ih =>
    intro lates d hlen
    rw [List.length_cons] at hlen
    obtain _ | ⟨l, _ | ⟨l', lates⟩⟩ := lates
    · simp at hlen
    · simp at hlen; omega
    · have hlen' : lates.length = 2 * fs.length := by simpa [Nat.mul_succ] using hlen
      rw [List.map_cons, List.map_cons, blockingRun_transaction, ih lates _ hlen']
      rfl

/-- A list of transactions either sets a register to a value of its own or leaves it as it is. -/
theorem DisplaySpace.read_writeFrames_cases (frames : List Frame) (a : Nat) :
    (∀ d e : DisplaySpace, (d.writeFrames frames).read a = (e.writeFrames frames).read a) ∨
    ∀ d : DisplaySpace, (d.writeFrames frames).read a = d.read a := by
  induction frames with
  | nil => exact .inr fun _ => rfl
  | cons f fs ih =>
    obtain hset | hkeep := ih
    · exact .inl fun d e => hset _ _
    · by_cases ha : a = displayAddress f.addr
      · exact .inl fun d e => by simp only [writeFrames_cons, hkeep, read_write, if_pos ha]
      · exact .inr fun d => by simp only [writeFrames_cons, hkeep, read_write, if_neg ha]

/-- Sending the same transactions again changes no register. -/
theorem DisplaySpace.read_writeFrames_twice (d : DisplaySpace) (frames : List Frame) (a : Nat) :
    ((d.writeFrames frames).writeFrames frames).read a = (d.writeFrames frames).read a := by
  obtain hset | hkeep := DisplaySpace.read_writeFrames_cases frames a
  · exact hset _ _
  · exact hkeep _

/-- SETUP with every wait ending with `done` (R184). -/
theorem exec_setup_allDone {s t : State} {lates : List Nat} {rest : List Input} (hc : cfgLegal s.cfg = true)
    (hs : s.drv.stage = .free) (hlen : lates.length = 2 * s.cfg.setupLen.toNat) (hlates : ∀ n ∈ lates, n < s.cfg.tTimeout)
    (hi : s.inputs = operationInputs s.cfg (lates.map .done) ++ rest) (he : exec .setup s = .next t) :
    t.cfg = s.cfg ∧ t.drv.stage = .free ∧ t.inputs = rest ∧
    t.link = s.link ++ (setupFrames s.cfg).flatMap transactionTrace ∧ t.disp = s.disp.writeFrames (setupFrames s.cfg) := by
  have hframes : lates.length = 2 * (setupFrames s.cfg).length := by
    obtain ⟨-, -, -, -, -, -, -, -, -, h | h⟩ := (cfgLegal_iff s.cfg).1 hc <;>
      rw [hlen, setupFrames_length, h] <;> rfl
  have hans : scriptAnswers (2 * (setupFrames s.cfg).length) (lates.map .done) = lates.map .done := by
    rw [← hframes, scriptAnswers_allDone]
  obtain ⟨r, -, hnext⟩ := displayRefinesBlockingProcedure s .setup (setupFrames s.cfg) (lates.map .done) rest hc hs rfl rfl
    (by simpa [Answer.inBound] using hlates) (by rw [hans, hi])
  rw [hans, blockingRun_allDone _ _ _ hframes, he] at hnext
  cases hnext
  exact ⟨rfl, rfl, rfl, rfl, rfl⟩

/-- Settles O39: both runs are the blocking procedure over the same table, and its writes given twice change nothing more. -/
theorem setupIdempotent : Obligations.SetupIdempotent := by
  intro s t u lates lates' rest hc hs hlen hlates hlen' hlates' hi ht hu
  obtain ⟨hcfg, hfree, hinputs, hlink, hdisp⟩ := exec_setup_allDone hc hs hlen hlates hi ht
  rw [← hcfg] at hc hlen' hlates' hinputs
  obtain ⟨-, -, -, hlink', hdisp'⟩ := exec_setup_allDone hc hfree hlen' hlates' hinputs hu
  rw [hcfg] at hlink' hdisp'
  refine ⟨⟨_, hlink, hlink'⟩, fun a => ?_⟩
  rw [hdisp', hdisp, DisplaySpace.read_writeFrames_twice]

end Sys2Proof.Machine
end

section
/-! Decoding an encoded instruction (R61 to R63, R67): the operation code picks the row, the unused bits are 0, and the operands
come back. -/

namespace Sys2Proof

/-- An operand comes back from the low bits of `arg` it was placed in (R63). -/
theorem extract_setWidth {n : Nat} (h : n ≤ 32) (x : BitVec n) : (x.setWidth 32).extractLsb' 0 n = x := by
  have hx : (x.setWidth 32).toNat = x.toNat := Machine.zext32_toNat h x
  apply BitVec.eq_of_toNat_eq
  rw [extract_toNat, hx, pow_zero, Nat.div_one, Nat.mod_eq_of_lt x.isLt]

/-- The two bytes of TRANSMIT come back (R63). -/
theorem extract_setWidth_append (a v : Byte) :
    ((a ++ v).setWidth 32).extractLsb' 8 8 = a ∧ ((a ++ v).setWidth 32).extractLsb' 0 8 = v := by
  have hx : ((a ++ v).setWidth 32).toNat = a.toNat * 2 ^ 8 + v.toNat :=
    (Machine.zext32_toNat (by norm_num) (a ++ v)).trans (append_toNat a v)
  have ha := a.isLt
  have hv := v.isLt
  constructor
  · apply BitVec.eq_of_toNat_eq; rw [extract_toNat, hx]; omega
  · apply BitVec.eq_of_toNat_eq; rw [extract_toNat, hx]; omega

/-- A word with `aux` 0 and an operand of `n` bits has its unused bits 0 (R62). -/
theorem unusedZero_commandWord {n : Nat} (h : n ≤ 32) (op : BitVec 4) (x : BitVec n) :
    unusedZero n (commandWord op 0 (x.setWidth 32)) = true := by
  have hx : (x.setWidth 32).toNat = x.toNat := Machine.zext32_toNat h x
  simp only [unusedZero, auxField_commandWord, argField_commandWord, hx, x.isLt, decide_true, Bool.and_true, beq_self_eq_true]

theorem whenUnusedZero_commandWord {n : Nat} (h : n ≤ 32) (op : BitVec 4) (x : BitVec n) (i : Instr) :
    whenUnusedZero n (commandWord op 0 (x.setWidth 32)) i = .legal i := if_pos (unusedZero_commandWord h op x)

theorem whenUnusedZero_commandWord_zero (op : BitVec 4) (i : Instr) : whenUnusedZero 0 (commandWord op 0 0) i = .legal i :=
  whenUnusedZero_commandWord (n := 0) (by norm_num) op 0 i

/-- Only a reserved point position has an encoding that is illegal (R67, R69). -/
theorem decode_encode {i : Instr} (h : i.wellFormed = true) : decode (encode i) = .legal i := by
  cases i with
  | sample s =>
    simp only [encode, decode, opField_commandWord, argField_commandWord]
    exact (whenUnusedZero_commandWord (by norm_num) 1 s _).trans (by rw [extract_setWidth (by norm_num)])
  | overflow =>
    simp only [encode, decode, opField_commandWord]
    exact whenUnusedZero_commandWord_zero _ _
  | capture c =>
    simp only [encode, decode, opField_commandWord, argField_commandWord]
    exact (whenUnusedZero_commandWord (by norm_num) 3 c _).trans (by rw [extract_setWidth (by norm_num)])
  | mode m =>
    simp only [encode, decode, opField_commandWord]
    change decodeMode _ = _
    rw [decodeMode, if_pos (unusedZero_commandWord (by norm_num) 4 (modeCode m)), argField_commandWord,
      extract_setWidth (by norm_num), modeOfCode_modeCode]
  | render =>
    simp only [encode, decode, opField_commandWord]
    exact whenUnusedZero_commandWord_zero _ _
  | transmit a v =>
    simp only [encode, decode, opField_commandWord, argField_commandWord]
    refine (whenUnusedZero_commandWord (by norm_num) 6 (a ++ v) _).trans ?_
    obtain ⟨ha, hv⟩ := extract_setWidth_append a v
    rw [ha, hv]
  | digits value dp =>
    simp only [encode, decode, opField_commandWord]
    change decodeDigits _ = _
    rw [decodeDigits, auxField_commandWord, argField_commandWord]
    exact if_pos h
  | errdisp =>
    simp only [encode, decode, opField_commandWord]
    exact whenUnusedZero_commandWord_zero _ _
  | setup =>
    simp only [encode, decode, opField_commandWord]
    exact whenUnusedZero_commandWord_zero _ _

end Sys2Proof
end

section
/-! Handler operations between the moves of the driver (R48): the two touch disjoint parts of the state, so a run that
interleaves them is a run of the moves alone beside a run of the handlers alone. -/

namespace Sys2Proof.Machine

/-! A handler operation. -/

/-- What a handler operation does: it is accepted in every state, and it writes the measurement state only (R120, R214). -/
def handle (i : Instr) (s : State) : State := (s.setMeas (measurementAfter s.cfg s.meas i)).handlerDone

theorem exec_handler {i : Instr} (hi : contextOf i ≠ .mainLoop) (s : State) : exec i s = .next (handle i s) := by
  cases i with
  | sample x => rfl
  | overflow => rfl
  | capture c => rfl
  | mode m => exact absurd rfl hi
  | render => exact absurd rfl hi
  | transmit a v => exact absurd rfl hi
  | digits value dp => exact absurd rfl hi
  | errdisp => exact absurd rfl hi
  | setup => exact absurd rfl hi

/-! A move of the driver does not look at what is outside the driver. -/

/-- The state with another measurement state, other inputs and other handler results. -/
def State.withOutside (s : State) (m : Measurement) (ins : List Input) (rs : List Result) : State :=
  { s with meas := m, inputs := ins, handlerResults := rs }

section
variable (s : State) (m : Measurement) (ins : List Input) (rs : List Result)

theorem commitTransaction_withOutside :
    commitTransaction (s.withOutside m ins rs) = (commitTransaction s).withOutside m ins rs := by
  rcases hq : s.drv.queue with _ | ⟨f, later⟩
  · rw [commitTransaction_last hq, commitTransaction_last (s := s.withOutside m ins rs) hq]; rfl
  · rw [commitTransaction_next hq, commitTransaction_next (s := s.withOutside m ins rs) hq]; rfl

theorem leaveFirstGap_withOutside : leaveFirstGap (s.withOutside m ins rs) = (leaveFirstGap s).withOutside m ins rs := by
  unfold leaveFirstGap
  rw [apply_ite (fun t : State => t.withOutside m ins rs)]
  rfl

theorem leaveSecondGap_withOutside :
    leaveSecondGap (s.withOutside m ins rs) = (leaveSecondGap s).withOutside m ins rs := by
  unfold leaveSecondGap
  rw [commitTransaction_withOutside]
  rw [apply_ite (fun t : State => t.withOutside m ins rs)]
  rfl

theorem pollUnanswered_withOutside :
    pollUnanswered (s.withOutside m ins rs) = (pollUnanswered s).withOutside m ins rs := by
  unfold pollUnanswered
  rw [apply_ite (fun t : State => t.withOutside m ins rs)]
  rfl

theorem transactionTick_withOutside (d : Bool) :
    transactionTick d (s.withOutside m ins rs) = (transactionTick d s).withOutside m ins rs := by
  have hphase : (s.withOutside m ins rs).drv.txPhase = s.drv.txPhase := rfl
  unfold transactionTick
  rw [hphase]
  cases s.drv.txPhase with
  | idle => rfl
  | b1Wait =>
    cases d with
    | false => exact pollUnanswered_withOutside s m ins rs
    | true => exact leaveFirstGap_withOutside (s.setDriver { s.drv with txPhase := .b1Gap, waited := 0 }) m ins rs
  | b1Gap => exact leaveFirstGap_withOutside (countTick s) m ins rs
  | b2Wait =>
    cases d with
    | false => exact pollUnanswered_withOutside s m ins rs
    | true => exact leaveSecondGap_withOutside (s.setDriver { s.drv with txPhase := .b2Gap, waited := 0 }) m ins rs
  | b2Gap => exact leaveSecondGap_withOutside (countTick s) m ins rs

theorem driverTick_withOutside (d : Bool) :
    driverTick d (s.withOutside m ins rs) = (driverTick d s).withOutside m ins rs := by
  have hstage : (s.withOutside m ins rs).drv.stage = s.drv.stage := rfl
  unfold driverTick
  rw [hstage]
  cases s.drv.stage with
  | free => rfl
  | opening => rfl
  | addressing => rfl
  | sending => exact transactionTick_withOutside s m ins rs d
  | returning r => rfl

end

/-- The state with other inputs still to be presented. -/
def State.withInputs (s : State) (ins : List Input) : State := { s with inputs := ins }

theorem driverTick_withInputs (d : Bool) (s : State) (ins : List Input) :
    driverTick d (s.withInputs ins) = (driverTick d s).withInputs ins := by
  obtain ⟨-, hmeas, -, hresults⟩ := driverTick_outside d s
  refine (driverTick_withOutside s s.meas ins s.handlerResults d).trans ?_
  rw [← hmeas, ← hresults]
  rfl

/-- A handler operation and a move of the driver commute. -/
theorem handle_driverTick (i : Instr) (d : Bool) (s : State) : handle i (driverTick d s) = driverTick d (handle i s) := by
  obtain ⟨hcfg, hmeas, hinputs, hresults⟩ := driverTick_outside d s
  have h := driverTick_withOutside s (measurementAfter s.cfg s.meas i) s.inputs (s.handlerResults ++ [okDone]) d
  refine Eq.trans ?_ h.symm
  rw [handle, hcfg, hmeas, ← hinputs, ← hresults]
  rfl

/-- Settles O46. -/
theorem handlersCommuteWithDriver : Obligations.HandlersCommuteWithDriver := by
  intro s t i d hi he
  rw [exec_handler hi] at he ⊢
  cases he
  rw [handle_driverTick]

/-! Two states that agree on one of the two parts. -/

/-- The part of the state that the moves of the driver read and write. -/
structure SameDriver (s u : State) : Prop where
  cfg : s.cfg = u.cfg
  drv : s.drv = u.drv
  link : s.link = u.link
  disp : s.disp = u.disp
  responses : s.responses = u.responses

/-- The part of the state that handler operations read and write. -/
structure SameHandlers (s v : State) : Prop where
  cfg : s.cfg = v.cfg
  meas : s.meas = v.meas
  handlerResults : s.handlerResults = v.handlerResults

theorem SameDriver.eq_withOutside {s u : State} (h : SameDriver s u) :
    s = u.withOutside s.meas s.inputs s.handlerResults := by
  obtain ⟨hcfg, hdrv, hlink, hdisp, hresponses⟩ := h
  cases s
  simp_all [State.withOutside]

/-- The driver's part and the handlers' part are the whole state but for the inputs. -/
theorem eq_withOutside_of_same {t u v : State} (hdriver : SameDriver t u) (hhandlers : SameHandlers t v) :
    t = u.withOutside v.meas t.inputs v.handlerResults := by
  rw [← hhandlers.meas, ← hhandlers.handlerResults]
  exact hdriver.eq_withOutside

theorem SameDriver.driverTick {s u : State} (h : SameDriver s u) (d : Bool) :
    SameDriver (driverTick d s) (driverTick d u) := by
  rw [h.eq_withOutside, driverTick_withOutside]
  exact ⟨rfl, rfl, rfl, rfl, rfl⟩

theorem SameHandlers.driverTick {s v : State} (h : SameHandlers s v) (d : Bool) : SameHandlers (driverTick d s) v := by
  obtain ⟨hcfg, hmeas, -, hresults⟩ := driverTick_outside d s
  exact ⟨hcfg.trans h.cfg, hmeas.trans h.meas, hresults.trans h.handlerResults⟩

theorem SameDriver.handle {s u : State} (h : SameDriver s u) (i : Instr) : SameDriver (handle i s) u :=
  ⟨h.cfg, h.drv, h.link, h.disp, h.responses⟩

theorem SameHandlers.handle {s v : State} (h : SameHandlers s v) (i : Instr) :
    SameHandlers (handle i s) (handle i v) := by
  obtain ⟨hcfg, hmeas, hresults⟩ := h
  refine ⟨hcfg, ?_, ?_⟩
  · simp [Machine.handle, hcfg, hmeas]
  · simp [Machine.handle, hresults]

theorem SameDriver.withInputs {s u : State} (h : SameDriver s u) (ins ins' : List Input) :
    SameDriver (s.withInputs ins) (u.withInputs ins') := ⟨h.cfg, h.drv, h.link, h.disp, h.responses⟩

theorem SameHandlers.withInputs {s v : State} (h : SameHandlers s v) (ins ins' : List Input) :
    SameHandlers (s.withInputs ins) (v.withInputs ins') := ⟨h.cfg, h.meas, h.handlerResults⟩

/-! Runs. -/

theorem run_succ_of_step {s t : State} (h : step s = .next t) (n : Nat) : core.run (n + 1) s = core.run n t := by
  have hcore : core.step s = .next t := h
  simp only [Host.Core.run, hcore]

/-- A run that answers a next state, from its first step. -/
theorem run_succ_next {s t : State} {n : Nat} (h : core.run (n + 1) s = .next t) :
    ∃ u, step s = .next u ∧ core.run n u = .next t := by
  rcases hs : step s with u | f | r
  · exact ⟨u, rfl, by rwa [run_succ_of_step hs] at h⟩
  · cases f
  · have hcore : core.step s = .refused r := hs
    simp [Host.Core.run, hcore] at h

/-- With nothing presented the block waits (R241). -/
theorem run_waiting {s : State} (hc : cfgLegal s.cfg = true) (hi : s.inputs = []) (n : Nat) : core.run n s = .next s := by
  induction n with
  | zero => rfl
  | succ n ih =>
    have hstep : step s = .next s := by simp [step, stepInputs, hc, hi]
    rw [run_succ_of_step hstep, ih]

/-- A run that has taken every input answers the same after one more step. -/
theorem run_succ_of_run {n : Nat} : ∀ {s t : State}, cfgLegal s.cfg = true → core.run n s = .next t → t.inputs = [] →
    core.run (n + 1) s = .next t := by
  induction n with
  | zero =>
    rintro s t hc ⟨⟩ hi
    exact run_waiting hc hi 1
  | succ n ih =>
    intro s t hc h hi
    obtain ⟨u, hu, ht⟩ := run_succ_next h
    rw [run_succ_of_step hu]
    exact ih (by rwa [step_cfg hu]) ht hi

/-! One input of an interleaving. -/

section
variable {s : State} (hc : cfgLegal s.cfg = true)
include hc

theorem step_withInputs_tick (d : Bool) (rest : List Input) :
    step (s.withInputs (.tick d :: rest)) = .next ((driverTick d s).withInputs rest) := by
  rw [← driverTick_withInputs]
  exact step_tick (s := s.withInputs (.tick d :: rest)) hc rfl

theorem step_withInputs_cmd {w : CmdWord} {i : Instr} (hw : decode w = .legal i) (rest : List Input) :
    step (s.withInputs (.cmd w :: rest)) = exec i (s.withInputs rest) := by
  simp [step, stepInputs, State.withInputs, hc, acceptInput, acceptCommand, hw]

theorem step_withInputs_handler {w : CmdWord} {i : Instr} (hw : decode w = .legal i) (hi : contextOf i ≠ .mainLoop)
    (rest : List Input) : step (s.withInputs (.cmd w :: rest)) = .next ((handle i s).withInputs rest) := by
  rw [step_withInputs_cmd hc hw, exec_handler hi]
  rfl

end

/-- Taking the ticks presented next in one step, or one step at a time, is the same to a run that takes every input (R48). -/
theorem run_driveDisplay (ins : List Input) : ∀ {s t : State}, cfgLegal s.cfg = true →
    core.run ins.length (s.withInputs ins) = .next t → t.inputs = [] →
    core.run ins.length (driveDisplay ins s) = .next t := by
  induction ins with
  | nil => exact fun _ h _ => h
  | cons x rest ih =>
    intro s t hc h hi
    cases x with
    | cmd w => exact h
    | rst => exact h
    | tick d =>
      by_cases hfree : s.drv.stage = .free
      · rwa [driveDisplay_idle hfree]
      · have hc' : cfgLegal (driverTick d s).cfg = true := by rwa [driverTick_cfg]
        have hrest := (run_succ_of_step (step_withInputs_tick hc d rest) rest.length).symm.trans h
        rw [driveDisplay_busy hfree]
        exact run_succ_of_run (by rwa [driveDisplay_cfg]) (ih hc' hrest hi) hi

/-- A move of the driver is presented. -/
def Input.isTick : Input → Bool
  | .tick _ => true
  | _ => false

/-- Something other than a move of the driver is presented. -/
def Input.isEvent : Input → Bool
  | .tick _ => false
  | _ => true

/-- What may be presented while a display operation is in progress: a move of the driver or a handler operation (R48, R217). -/
def Input.isTickOrHandler (x : Input) : Prop :=
  (∃ d, x = .tick d) ∨ ∃ w i, x = .cmd w ∧ decode w = .legal i ∧ contextOf i ≠ .mainLoop

/-- A run over an interleaving keeps the driver's part equal to that of the run over the ticks, and the handlers' part to that of
the run over the other inputs: each input is a step of the run and of the one of the two it belongs to. -/
theorem run_interleaving (ins : List Input) : ∀ {s u v : State}, cfgLegal s.cfg = true →
    (∀ x ∈ ins, x.isTickOrHandler) → SameDriver s u → SameHandlers s v →
    ∃ t u' v' : State,
      core.run ins.length (s.withInputs ins) = .next t ∧
      core.run (ins.filter Input.isTick).length (u.withInputs (ins.filter Input.isTick)) = .next u' ∧
      core.run (ins.filter Input.isEvent).length (v.withInputs (ins.filter Input.isEvent)) = .next v' ∧
      t.inputs = [] ∧ u'.inputs = [] ∧ SameDriver t u' ∧ SameHandlers t v' := by
  induction ins with
  | nil =>
    intro s u v _ _ hd hh
    exact ⟨_, _, _, rfl, rfl, rfl, rfl, rfl, hd.withInputs [] [], hh.withInputs [] []⟩
  | cons x rest ih =>
    intro s u v hc hx hd hh
    have hcu : cfgLegal u.cfg = true := hd.cfg ▸ hc
    have hcv : cfgLegal v.cfg = true := hh.cfg ▸ hc
    obtain ⟨hx, hrest⟩ := List.forall_mem_cons.1 hx
    obtain ⟨d, rfl⟩ | ⟨w, i, rfl, hw, hctx⟩ := hx
    · obtain ⟨t, u', v', ht, hu, hv, hend⟩ :=
        ih (s := driverTick d s) (by rwa [driverTick_cfg]) hrest (hd.driverTick d) (hh.driverTick d)
      exact ⟨t, u', v', (run_succ_of_step (step_withInputs_tick hc d rest) _).trans ht,
        (run_succ_of_step (step_withInputs_tick hcu d _) _).trans hu, hv, hend⟩
    · obtain ⟨t, u', v', ht, hu, hv, hend⟩ := ih (s := handle i s) hc hrest (hd.handle i) (hh.handle i)
      exact ⟨t, u', v', (run_succ_of_step (step_withInputs_handler hc hw hctx rest) _).trans ht, hu,
        (run_succ_of_step (step_withInputs_handler hcv hw hctx _) _).trans hv, hend⟩

/-- Settles O47: from one state, every part of the result is in the driver's part or in the handlers' part. -/
theorem interleavingUnobservable : Obligations.InterleavingUnobservable := by
  intro s ins hc hins ticks events
  obtain ⟨t, u, v, ht, hu, hv, -, -, hd, hh⟩ :=
    run_interleaving ins (s := s) (u := s) (v := s) hc hins ⟨rfl, rfl, rfl, rfl, rfl⟩ ⟨rfl, rfl, rfl⟩
  exact ⟨t, u, v, ht, hu, hv, hd.drv, hd.link, hd.disp, hd.responses, hh.meas, hh.handlerResults⟩

/-! A display operation interrupted by handler operations. -/

/-- Over the ticks that carry its answers, a prepared operation runs to its return, taken in one step or one by one. -/
theorem RefinesBlocking.run_ticks {f : Frame} {later : List Frame} {idx : BitVec 4} {answers : List Answer} {s : State}
    (h : RefinesBlocking f later idx answers s) (hc : cfgLegal s.cfg = true) {u : State}
    (hu : core.run (operationInputs s.cfg answers).length
      ((prepareTransaction f later idx s).withInputs (operationInputs s.cfg answers)) = .next u) (hui : u.inputs = []) :
    ∃ r, (blockingRun (f :: later) answers s.disp).2.2 = some r ∧
      u = s.returned (blockingRun (f :: later) answers s.disp) r [] := by
  obtain ⟨r, hr, hrest⟩ := h
  have hdrive := run_driveDisplay (operationInputs s.cfg answers) (s := prepareTransaction f later idx s) hc hu hui
  have hnil := hrest []
  rw [List.append_nil] at hnil
  rw [hnil] at hdrive
  have hwait := run_waiting (s := s.returned (blockingRun (f :: later) answers s.disp) r []) hc rfl
    (operationInputs s.cfg answers).length
  exact ⟨r, hr, Host.Outcome.next.inj (hdrive.symm.trans hwait)⟩

/-- Settles O43: the run from the prepared transaction splits into the ticks, which give what the blocking procedure gives, and
the handler operations. -/
theorem interruptedDisplayOperation : Obligations.InterruptedDisplayOperation := by
  intro s i frames given ins hc hs hw hf hb hins answers ticks events hticks
  obtain ⟨f, later, idx, hframes, hblocking, he⟩ := exec_refinesBlocking (s := s.withInputs ins) hc hs hw hf hb
  subst hframes
  have hc' : cfgLegal (prepareTransaction f later idx (s.withInputs ins)).cfg = true := hc
  obtain ⟨t, u, v, ht, hu, hv, hti, hui, hd, hh⟩ :=
    run_interleaving ins (v := s) hc' hins ⟨rfl, rfl, rfl, rfl, rfl⟩ ⟨rfl, rfl, rfl⟩
  rw [show ins.filter Input.isTick = operationInputs s.cfg answers from hticks] at hu
  obtain ⟨r, hr, rfl⟩ := hblocking.run_ticks hc hu hui
  have hstep : step (s.withInputs (.cmd (encode i) :: ins)) =
      .next (driveDisplay ins (prepareTransaction f later idx (s.withInputs ins))) := by
    rw [step_withInputs_cmd hc (decode_encode hw), he]
    rfl
  refine ⟨t, v, r, hr, (run_succ_of_step hstep _).trans (run_driveDisplay ins hc' ht hti), hv, ?_⟩
  rw [eq_withOutside_of_same hd hh, hti]
  rfl

end Sys2Proof.Machine
end

section
/-! The command port (R60 to R67): the decoder row by row, the word of a decoded instruction, exactly which words are illegal, and
what a step does with the word presented next. -/

namespace Sys2Proof.Machine

/-! The decoder as the table of R62 writes it, one row per operation. -/

/-- What the decoder reads from a word, by its operation code (R62, R67). -/
theorem decode_rows (w : CmdWord) :
    (opcodeNumber w = 1 ∧ decode w = whenUnusedZero 12 w (.sample ((argField w).extractLsb' 0 12))) ∨
    (opcodeNumber w = 2 ∧ decode w = whenUnusedZero 0 w .overflow) ∨
    (opcodeNumber w = 3 ∧ decode w = whenUnusedZero 16 w (.capture ((argField w).extractLsb' 0 16))) ∨
    (opcodeNumber w = 4 ∧ decode w = decodeMode w) ∨
    (opcodeNumber w = 5 ∧ decode w = whenUnusedZero 0 w .render) ∨
    (opcodeNumber w = 6 ∧ decode w =
      whenUnusedZero 16 w (.transmit ((argField w).extractLsb' 8 8) ((argField w).extractLsb' 0 8))) ∨
    (opcodeNumber w = 7 ∧ decode w = decodeDigits w) ∨
    (opcodeNumber w = 8 ∧ decode w = whenUnusedZero 0 w .errdisp) ∨
    (opcodeNumber w = 9 ∧ decode w = whenUnusedZero 0 w .setup) ∨
    ((opcodeNumber w = 0 ∨ 0xA ≤ opcodeNumber w) ∧ decode w = .illegal .reservedOpcode) := by
  have hop : (opField w).toNat = opcodeNumber w := opField_toNat w
  unfold decode
  rw [hop]
  generalize opcodeNumber w = op
  split
  case h_10 =>
    have hreserved : op = 0 ∨ 0xA ≤ op := by
      simp only [imp_false] at *
      omega
    simp [hreserved]
  all_goals simp

theorem unusedZero_iff (n : Nat) (w : CmdWord) : unusedZero n w = true ↔ auxField w = 0 ∧ (argField w).toNat < 2 ^ n := by
  rw [unusedZero, Bool.and_eq_true, beq_iff_eq, decide_eq_true_iff]

/-- What a row without reserved operands accepts: unused bits 0 (R67). -/
theorem whenUnusedZero_eq_legal_iff {n : Nat} {w : CmdWord} {i j : Instr} :
    whenUnusedZero n w j = .legal i ↔ unusedZero n w = true ∧ i = j := by
  rw [whenUnusedZero_legal_iff, unusedZero_iff, eq_comm (a := j)]

/-- What MODE accepts: unused bits 0 and a code that names a mode (R67, R68). -/
theorem decodeMode_legal_iff {w : CmdWord} {i : Instr} :
    decodeMode w = .legal i ↔
      unusedZero 3 w = true ∧ ∃ m, modeOfCode ((argField w).extractLsb' 0 3) = some m ∧ i = .mode m := by
  unfold decodeMode
  by_cases hu : unusedZero 3 w = true
  · rw [if_pos hu]
    cases modeOfCode ((argField w).extractLsb' 0 3) with
    | none => simp
    | some m => simp [hu, eq_comm]
  · simp [hu]

/-- What DIGITS accepts: any value, at a position that is not reserved (R67, R69). -/
theorem decodeDigits_legal_iff {w : CmdWord} {i : Instr} :
    decodeDigits w = .legal i ↔ legalPosition (auxField w) = true ∧ i = .digits (argField w) (auxField w) := by
  unfold decodeDigits
  by_cases hp : legalPosition (auxField w) = true
  · rw [if_pos hp, Decoded.legal.injEq, eq_comm, and_iff_right hp]
  · simp [hp]

/-! The bits marked `-` in R62. -/

theorem and_shifted_ones (x n k : Nat) : x &&& (2 ^ k - 1) * 2 ^ n = x / 2 ^ n % 2 ^ k * 2 ^ n := by
  rw [← Nat.and_two_pow_sub_one_eq_mod, ← Nat.shiftRight_eq_div_pow, ← Nat.shiftLeft_eq, ← Nat.shiftLeft_eq]
  apply Nat.eq_of_testBit_eq
  intro j
  simp only [Nat.testBit_and, Nat.testBit_shiftLeft, Nat.testBit_shiftRight]
  by_cases hj : n ≤ j
  · simp [hj]
  · simp [hj]

/-- The bits above `n` operand bits and below the operation code. -/
def unusedBits (n : Nat) : CmdWord := BitVec.ofNat 40 ((2 ^ (36 - n) - 1) * 2 ^ n)

/-- The decoder's test of the unused bits is the mask's (R62, R67). -/
theorem unusedZero_iff_mask {n : Nat} (hn : n ≤ 32) (w : CmdWord) : unusedZero n w = true ↔ w &&& unusedBits n = 0 := by
  have hbits : (unusedBits n).toNat = (2 ^ (36 - n) - 1) * 2 ^ n := by
    have hpow : 2 ^ (36 - n) * 2 ^ n = 2 ^ 36 := by rw [← pow_add, Nat.sub_add_cancel (by omega)]
    refine (BitVec.toNat_ofNat _ _).trans (Nat.mod_eq_of_lt ?_)
    rw [Nat.sub_mul, hpow]
    omega
  have hmask : w &&& unusedBits n = 0 ↔ w.toNat / 2 ^ n % 2 ^ (36 - n) = 0 := by
    rw [← BitVec.toNat_inj, BitVec.toNat_and, hbits, and_shifted_ones]
    simp
  have hsplit : w.toNat / 2 ^ n % 2 ^ (36 - n) = w.toNat % 2 ^ 36 / 2 ^ n := by
    rw [← Nat.mod_mul_right_div_self, ← pow_add, Nat.add_sub_cancel' (by omega)]
  have hle : 2 ^ n ≤ 2 ^ 32 := Nat.pow_le_pow_right (by norm_num) hn
  have hzero : auxField w = 0 ↔ (auxField w).toNat = 0 := BitVec.toNat_inj.symm
  rw [hmask, hsplit, Nat.div_eq_zero_iff, unusedZero_iff, hzero, auxField_toNat, argField_toNat]
  have hpos : 0 < 2 ^ n := Nat.two_pow_pos n
  omega

/-! The rows whose words are an operation code and an operand, as one. -/

/-- An operand of no bits is 0. -/
theorem setWidth_noOperand (arg : BitVec 32) : (arg.extractLsb' 0 0).setWidth 32 = 0 := by
  rw [BitVec.eq_nil (arg.extractLsb' 0 0)]
  rfl

/-- The two operand bytes of TRANSMIT are the 16 operand bits of its word (R63). -/
theorem transmit_operand (arg : BitVec 32) : arg.extractLsb' 8 8 ++ arg.extractLsb' 0 8 = arg.extractLsb' 0 16 :=
  BitVec.extractLsb'_append_extractLsb'_eq_extractLsb' rfl

/-- A word in a row of R62 other than MODE and DIGITS: the operation code `op`, `n` operand bits, all other bits `-`, and the
instruction `i` the operand gives. -/
structure PlainRow (w : CmdWord) (op : BitVec 4) (n : Nat) (i : Instr) : Prop where
  opNumber : opcodeNumber w = op.toNat
  decodes : decode w = whenUnusedZero n w i
  encodes : encode i = commandWord op 0 (((argField w).extractLsb' 0 n).setWidth 32)
  wellFormed : i.wellFormed = true
  width : n ≤ 32
  mask : mustBeZeroMask op.toNat = unusedBits n
  code : 0 < op.toNat ∧ op.toNat < 0xA ∧ op.toNat ≠ 4 ∧ op.toNat ≠ 7

/-- Every word is in a plain row, in the row of MODE or of DIGITS, or in none (R62). -/
theorem word_rows (w : CmdWord) :
    (∃ op n i, PlainRow w op n i) ∨
    (opcodeNumber w = 4 ∧ decode w = decodeMode w) ∨
    (opcodeNumber w = 7 ∧ decode w = decodeDigits w) ∨
    ((opcodeNumber w = 0 ∨ 0xA ≤ opcodeNumber w) ∧ decode w = .illegal .reservedOpcode) := by
  have hnone := setWidth_noOperand (argField w)
  obtain ⟨hop, hd⟩ | ⟨hop, hd⟩ | ⟨hop, hd⟩ | hmode | ⟨hop, hd⟩ | ⟨hop, hd⟩ | hdigits | ⟨hop, hd⟩ | ⟨hop, hd⟩ | hreserved :=
    decode_rows w
  · exact .inl ⟨1, 12, _, hop, hd, rfl, rfl, by norm_num, rfl, by decide⟩
  · exact .inl ⟨2, 0, _, hop, hd, by rw [hnone]; rfl, rfl, by norm_num, rfl, by decide⟩
  · exact .inl ⟨3, 16, _, hop, hd, rfl, rfl, by norm_num, rfl, by decide⟩
  · exact .inr (.inl hmode)
  · exact .inl ⟨5, 0, _, hop, hd, by rw [hnone]; rfl, rfl, by norm_num, rfl, by decide⟩
  · exact .inl ⟨6, 16, _, hop, hd, by rw [encode, transmit_operand], rfl, by norm_num, rfl, by decide⟩
  · exact .inr (.inr (.inl hdigits))
  · exact .inl ⟨8, 0, _, hop, hd, by rw [hnone]; rfl, rfl, by norm_num, rfl, by decide⟩
  · exact .inl ⟨9, 0, _, hop, hd, by rw [hnone]; rfl, rfl, by norm_num, rfl, by decide⟩
  · exact .inr (.inr (.inr hreserved))

/-! The word of a decoded instruction. -/

theorem opField_of_opcodeNumber {w : CmdWord} {op : BitVec 4} (h : opcodeNumber w = op.toNat) : opField w = op :=
  BitVec.eq_of_toNat_eq ((opField_toNat w).trans h)

/-- A word whose unused bits are 0 is put together again from its operation code and its operand (R62, R63). -/
theorem commandWord_operand {n : Nat} {w : CmdWord} {op : BitVec 4} (hn : n ≤ 32) (hop : opcodeNumber w = op.toNat)
    (hu : unusedZero n w = true) : commandWord op 0 (((argField w).extractLsb' 0 n).setWidth 32) = w := by
  obtain ⟨haux, harg⟩ := (unusedZero_iff n w).1 hu
  have hoperand : ((argField w).extractLsb' 0 n).setWidth 32 = argField w := by
    apply BitVec.eq_of_toNat_eq
    exact (zext32_toNat hn _).trans (by rw [extract_toNat, pow_zero, Nat.div_one, Nat.mod_eq_of_lt harg])
  rw [hoperand, ← opField_of_opcodeNumber hop, ← haux, commandWord_fields]

/-- A legal word is the encoding of what the decoder reads from it (R61 to R63). -/
theorem encode_of_decode {w : CmdWord} {i : Instr} (h : decode w = .legal i) : encode i = w ∧ i.wellFormed = true := by
  obtain ⟨op, n, j, hrow⟩ | ⟨hop, hd⟩ | ⟨hop, hd⟩ | ⟨-, hd⟩ := word_rows w
  · obtain ⟨hu, rfl⟩ := whenUnusedZero_eq_legal_iff.1 (hrow.decodes.symm.trans h)
    exact ⟨hrow.encodes.trans (commandWord_operand hrow.width hrow.opNumber hu), hrow.wellFormed⟩
  · obtain ⟨hu, m, hm, rfl⟩ := decodeMode_legal_iff.1 (hd.symm.trans h)
    rw [encode, modeCode_of_modeOfCode hm]
    exact ⟨commandWord_operand (by norm_num) hop hu, rfl⟩
  · obtain ⟨hposition, rfl⟩ := decodeDigits_legal_iff.1 (hd.symm.trans h)
    have hopField : opField w = 7 := opField_of_opcodeNumber hop
    rw [encode, ← hopField, commandWord_fields]
    exact ⟨rfl, hposition⟩
  · rw [hd] at h
    cases h

/-! Which words are illegal (R67). -/

/-- In a plain row the unused bits decide. -/
theorem PlainRow.legal_iff {w : CmdWord} {op : BitVec 4} {n : Nat} {j : Instr} (h : PlainRow w op n j) :
    (∃ i, decode w = .legal i) ↔ ¬illegalWord w := by
  obtain ⟨hpos, hlt, h4, h7⟩ := h.code
  have hillegal : illegalWord w ↔ w &&& unusedBits n ≠ 0 := by
    rw [illegalWord, h.opNumber, h.mask]
    simp only [hpos.ne', hlt.not_ge, h4, h7, false_and, false_or, or_false]
  simp only [hillegal, h.decodes, whenUnusedZero_eq_legal_iff, unusedZero_iff_mask h.width, exists_and_left, exists_eq, and_true,
    ne_eq, not_not]

/-- The codes that name a mode (R68). -/
theorem modeOfCode_some_iff (m : BitVec 3) : (∃ x, modeOfCode m = some x) ↔ m.toNat < 5 := by
  rw [← Option.isSome_iff_exists]
  revert m
  decide

theorem legal_iff_of_mode {w : CmdWord} (hop : opcodeNumber w = 4) (hd : decode w = decodeMode w) :
    (∃ i, decode w = .legal i) ↔ ¬illegalWord w := by
  have hcode : ((argField w).extractLsb' 0 3).toNat = w.toNat % 8 := by
    rw [extract_toNat, argField_toNat]
    omega
  have hillegal : illegalWord w ↔ w &&& unusedBits 3 ≠ 0 ∨ 5 ≤ w.toNat % 8 := by
    rw [illegalWord, hop, show mustBeZeroMask 4 = unusedBits 3 from rfl]
    simp
  have hlegal : (∃ i, decodeMode w = .legal i) ↔ unusedZero 3 w = true ∧ w.toNat % 8 < 5 := by
    rw [← hcode, ← modeOfCode_some_iff]
    constructor
    · rintro ⟨i, hi⟩
      obtain ⟨hu, m, hm, -⟩ := decodeMode_legal_iff.1 hi
      exact ⟨hu, m, hm⟩
    · rintro ⟨hu, m, hm⟩
      exact ⟨_, decodeMode_legal_iff.2 ⟨hu, m, hm, rfl⟩⟩
  rw [hd, hlegal, hillegal, unusedZero_iff_mask (by norm_num), not_or, ne_eq, not_not, not_le]

theorem legal_iff_of_digits {w : CmdWord} (hop : opcodeNumber w = 7) (hd : decode w = decodeDigits w) :
    (∃ i, decode w = .legal i) ↔ ¬illegalWord w := by
  have hillegal : illegalWord w ↔ 9 ≤ w.toNat / 2 ^ 32 % 16 := by
    rw [illegalWord, hop, show mustBeZeroMask 7 = 0 from rfl]
    simp
  have hlegal : (∃ i, decodeDigits w = .legal i) ↔ w.toNat / 2 ^ 32 % 16 ≤ 8 := by
    simp [decodeDigits_legal_iff, legalPosition, auxField_toNat]
  rw [hd, hlegal, hillegal]
  omega

/-- The decoder rejects exactly the words that R67 names. -/
theorem legal_iff_not_illegalWord (w : CmdWord) : (∃ i, decode w = .legal i) ↔ ¬illegalWord w := by
  obtain ⟨op, n, i, hrow⟩ | ⟨hop, hd⟩ | ⟨hop, hd⟩ | ⟨hop, hd⟩ := word_rows w
  · exact hrow.legal_iff
  · exact legal_iff_of_mode hop hd
  · exact legal_iff_of_digits hop hd
  · have hillegal : illegalWord w := hop.elim .inl fun h => .inr (.inl h)
    simp [hd, hillegal]

/-- A word that R67 names is rejected. -/
theorem decode_of_illegalWord {w : CmdWord} (h : illegalWord w) : ∃ e, decode w = .illegal e := by
  cases hd : decode w with
  | legal i => exact absurd h ((legal_iff_not_illegalWord w).1 ⟨i, hd⟩)
  | illegal e => exact ⟨e, rfl⟩

/-! A step with a command word presented next (R60). -/

theorem step_cmd {s : State} {w : CmdWord} {rest : List Input} (hc : cfgLegal s.cfg = true) (hi : s.inputs = .cmd w :: rest) :
    step s = acceptCommand w { s with inputs := rest } := by
  simp [step, stepInputs, hc, hi, acceptInput]

theorem acceptCommand_legal {w : CmdWord} {i : Instr} (h : decode w = .legal i) (s : State) : acceptCommand w s = exec i s := by
  simp [acceptCommand, h]

theorem acceptCommand_illegal {w : CmdWord} {e : DecodeError} (h : decode w = .illegal e) (s : State) :
    acceptCommand w s = .next (s.respond .illegal) := by
  simp [acceptCommand, h]

/-! The response word (R64, R65). -/

/-- The response word of an Ok: result code 0, the position, the value (R64). -/
theorem responseWord_ok (value : BitVec 32) (dp : BitVec 4) : responseWord (.ok value dp) = commandWord 0 dp value := rfl

/-- Setting bits of the operation code leaves the other two fields as they are (R61). -/
theorem commandWord_or_op (op op' aux : BitVec 4) (arg : BitVec 32) :
    commandWord op aux arg ||| commandWord op' 0 0 = commandWord (op ||| op') aux arg := by
  have h : (op ++ aux ++ arg) ||| (op' ++ 0#4 ++ 0#32) = (op ||| op') ++ aux ++ arg := by
    rw [BitVec.or_append, BitVec.or_append, BitVec.or_zero, BitVec.or_zero]
  exact h

/-! The statements. -/

/-- Settles O1: the operation code picks the row, the unused bits are 0, and the operands come back. -/
theorem decodeOfEncode : Obligations.DecodeOfEncode := fun _ => decode_encode

/-- Settles O2: the fields of a legal word are the operation code and the operands read from it. -/
theorem encodeOfDecode : Obligations.EncodeOfDecode := fun _ _ => encode_of_decode

/-- Settles O3: the words R67 names are the ones the decoder rejects, and a rejected word is answered ILLEGAL. -/
theorem illegalWordsAnswered : Obligations.IllegalWordsAnswered := by
  intro s w rest hc hi
  constructor
  · intro hw
    obtain ⟨e, he⟩ := decode_of_illegalWord hw
    exact (step_cmd hc hi).trans (acceptCommand_illegal he _)
  · intro hw
    obtain ⟨i, hd⟩ := (legal_iff_not_illegalWord w).2 hw
    exact ⟨i, hd, (encode_of_decode hd).2⟩

/-- Settles O4: each word is the encoding of its operation. -/
theorem writtenWordsDecode : Obligations.WrittenWordsDecode :=
  ⟨decode_encode (i := .sample 2015) rfl, decode_encode (i := .overflow) rfl, decode_encode (i := .capture 0x1234) rfl,
    decode_encode (i := .mode .peakToPeak) rfl, decode_encode (i := .render) rfl,
    decode_encode (i := .transmit 0x04 0x81) rfl, decode_encode (i := .digits 1234 4) rfl,
    decode_encode (i := .errdisp) rfl, decode_encode (i := .setup) rfl⟩

/-- Settles O5: the step takes the word, and a legal word runs its instruction. -/
theorem stepRunsDecodedInstruction : Obligations.StepRunsDecodedInstruction := by
  intro s w rest i hc hi hd
  rw [step_cmd hc hi, acceptCommand_legal hd]

/-- Settles O8: the fields of an Ok as a number, and the word of each error. -/
theorem responseWordFields : Obligations.ResponseWordFields := by
  refine ⟨fun value dp => ?_, rfl, rfl, rfl, rfl⟩
  simp [responseWord_ok, commandWord_toNat]

/-- Settles O9: an Ok response and its DIGITS word differ in the top digit only, and every other result is an error. -/
theorem refreshCommandFromResponse : Obligations.RefreshCommandFromResponse := by
  constructor
  · intro value dp
    rw [responseWord_ok]
    exact (commandWord_or_op 0 7 dp value).symm
  · intro r hr
    cases r with
    | ok value dp => exact absurd rfl (hr value dp)
    | outOfRange => rfl
    | timeout => rfl
    | notYetValid => rfl
    | illegal => rfl

end Sys2Proof.Machine
end

section
/-! The averager (R90 to R95): its formula over the naturals, the truncation law and the bounds that follow from it, and the
updates under a constant input, which move towards the input until they stop at a fixed point. -/

namespace Sys2Proof.Machine

/-! The formula (R90, R92). -/

theorem ema_toNat_le_max (a s : Acc) (k : BitVec 4) : (ema a s k).toNat ≤ max a.toNat s.toNat :=
  ema_toNat_le (le_max_left _ _) (le_max_right _ _) k

/-- The narrowing to 32 bits loses nothing (R92). -/
theorem ema_toNat (a s : Acc) (k : BitVec 4) :
    (ema a s k).toNat = s.toNat / 2 ^ k.toNat + a.toNat / 2 ^ k.toNat * (2 ^ k.toNat - 1) := by
  have hfit : emaNat a.toNat s.toNat k.toNat < 2 ^ 32 :=
    (emaNat_le (le_max_left _ _) (le_max_right _ _) _).trans_lt (max_lt a.isLt s.isLt)
  rw [ema, BitVec.toNat_ofNat, Nat.mod_eq_of_lt hfit, emaNat_eq]

theorem ema_toNat_mono {a a' s s' : Acc} (ha : a.toNat ≤ a'.toNat) (hs : s.toNat ≤ s'.toNat) (k : BitVec 4) :
    (ema a s k).toNat ≤ (ema a' s' k).toNat := by
  rw [ema_toNat, ema_toNat]
  gcongr

/-! The truncation law (R93). -/

/-- The old average weighs `2^k - 1` and the new sample 1. -/
theorem two_pow_mul_split (k x : Nat) : 2 ^ k * x = (2 ^ k - 1) * x + x := by
  rw [← Nat.succ_mul, Nat.succ_eq_add_one, Nat.sub_add_cancel Nat.one_le_two_pow]

/-- What the two right shifts discard, times `p = 2^k`: the deficit `d` of R93 is this over `p`. -/
def emaDeficit (a s p : Nat) : Nat := a % p * (p - 1) + s % p

theorem emaDeficit_le (a s k : Nat) : emaDeficit a s (2 ^ k) ≤ 2 ^ k * (2 ^ k - 1) := by
  have hra : a % 2 ^ k ≤ 2 ^ k - 1 := Nat.le_sub_one_of_lt (Nat.mod_lt a (Nat.two_pow_pos k))
  have hrs : s % 2 ^ k ≤ 2 ^ k - 1 := Nat.le_sub_one_of_lt (Nat.mod_lt s (Nat.two_pow_pos k))
  calc emaDeficit a s (2 ^ k) ≤ (2 ^ k - 1) * (2 ^ k - 1) + (2 ^ k - 1) :=
        Nat.add_le_add (Nat.mul_le_mul_right _ hra) hrs
    _ = 2 ^ k * (2 ^ k - 1) := (two_pow_mul_split k _).symm

theorem emaDeficit_eq_zero_iff (a s k : Nat) : emaDeficit a s (2 ^ k) = 0 ↔ 2 ^ k ∣ a ∧ 2 ^ k ∣ s := by
  rw [emaDeficit, Nat.add_eq_zero_iff, Nat.mul_eq_zero, Nat.dvd_iff_mod_eq_zero, Nat.dvd_iff_mod_eq_zero]
  refine and_congr_left fun _ => or_iff_left_of_imp fun hp => ?_
  have hone : 2 ^ k = 1 := le_antisymm (Nat.sub_eq_zero_iff_le.1 hp) Nat.one_le_two_pow
  rw [hone, Nat.mod_one]

/-- The closed form of R93. -/
theorem ema_toNat_add (a s : Acc) (k : BitVec 4) :
    (ema a s k).toNat + a.toNat % 2 ^ k.toNat + a.toNat / 2 ^ k.toNat = a.toNat + s.toNat / 2 ^ k.toNat := by
  have ha := Nat.div_add_mod a.toNat (2 ^ k.toNat)
  have hqa := two_pow_mul_split k.toNat (a.toNat / 2 ^ k.toNat)
  rw [ema_toNat, mul_comm (a.toNat / 2 ^ k.toNat)]
  omega

/-- The result and what the shifts discard make up the exact filter value (R93). -/
theorem two_pow_mul_ema (a s : Acc) (k : BitVec 4) :
    2 ^ k.toNat * (ema a s k).toNat + emaDeficit a.toNat s.toNat (2 ^ k.toNat) =
      (2 ^ k.toNat - 1) * a.toNat + s.toNat := by
  rw [ema_toNat, emaDeficit]
  conv_rhs => rw [← Nat.div_add_mod a.toNat (2 ^ k.toNat), ← Nat.div_add_mod s.toNat (2 ^ k.toNat)]
  ring

theorem two_pow_mul_ema_of_dvd {a s : Acc} {k : BitVec 4} (ha : 2 ^ k.toNat ∣ a.toNat) (hs : 2 ^ k.toNat ∣ s.toNat) :
    2 ^ k.toNat * (ema a s k).toNat = (2 ^ k.toNat - 1) * a.toNat + s.toNat := by
  rw [← two_pow_mul_ema, (emaDeficit_eq_zero_iff _ _ _).2 ⟨ha, hs⟩, add_zero]

/-! The bounds (R94). -/

/-- The result falls short of the smaller operand by less than `2^k` (R94). -/
theorem le_ema_toNat_add {a s : Acc} {b : Nat} (ha : b ≤ a.toNat) (hs : b ≤ s.toNat) (k : BitVec 4) :
    b ≤ (ema a s k).toNat + (2 ^ k.toNat - 1) := by
  refine Nat.le_of_mul_le_mul_left ?_ (Nat.two_pow_pos k.toNat)
  calc 2 ^ k.toNat * b = (2 ^ k.toNat - 1) * b + b := two_pow_mul_split _ _
    _ ≤ (2 ^ k.toNat - 1) * a.toNat + s.toNat := Nat.add_le_add (Nat.mul_le_mul_left _ ha) hs
    _ = 2 ^ k.toNat * (ema a s k).toNat + emaDeficit a.toNat s.toNat (2 ^ k.toNat) := (two_pow_mul_ema a s k).symm
    _ ≤ 2 ^ k.toNat * (ema a s k).toNat + 2 ^ k.toNat * (2 ^ k.toNat - 1) :=
      Nat.add_le_add_left (emaDeficit_le _ _ _) _
    _ = 2 ^ k.toNat * ((ema a s k).toNat + (2 ^ k.toNat - 1)) := (Nat.mul_add _ _ _).symm

/-- The source's property, where it holds: between multiples of `2^k` the result rises above a smaller average (R94). -/
theorem lt_ema_toNat_of_dvd {a s : Acc} {k : BitVec 4} (ha : 2 ^ k.toNat ∣ a.toNat) (hs : 2 ^ k.toNat ∣ s.toNat)
    (h : a.toNat < s.toNat) : a.toNat < (ema a s k).toNat := by
  refine Nat.lt_of_mul_lt_mul_left (a := 2 ^ k.toNat) ?_
  rw [two_pow_mul_ema_of_dvd ha hs, two_pow_mul_split]
  exact Nat.add_lt_add_left h _

/-- The source's property, where it holds: between multiples of `2^k` the result falls below a larger average (R94). -/
theorem ema_toNat_lt_of_dvd {a s : Acc} {k : BitVec 4} (ha : 2 ^ k.toNat ∣ a.toNat) (hs : 2 ^ k.toNat ∣ s.toNat)
    (h : s.toNat < a.toNat) : (ema a s k).toNat < a.toNat := by
  refine Nat.lt_of_mul_lt_mul_left (a := 2 ^ k.toNat) ?_
  rw [two_pow_mul_ema_of_dvd ha hs, two_pow_mul_split]
  exact Nat.add_lt_add_left h _

/-! Fixed points (R95). -/

/-- The condition of R95 on a fixed point: `qs - qa = ra`. -/
theorem ema_eq_self_iff (a s : Acc) (k : BitVec 4) :
    ema a s k = a ↔ s.toNat / 2 ^ k.toNat = a.toNat / 2 ^ k.toNat + a.toNat % 2 ^ k.toNat := by
  have hclosed := ema_toNat_add a s k
  rw [← BitVec.toNat_inj]
  omega

/-- A fixed point lies below its input by what the shifts discard (R93, R95). -/
theorem fixedPoint_add_deficit {a s : Acc} {k : BitVec 4} (h : ema a s k = a) :
    a.toNat + emaDeficit a.toNat s.toNat (2 ^ k.toNat) = s.toNat := by
  have hlaw := two_pow_mul_ema a s k
  rw [h, two_pow_mul_split] at hlaw
  omega

theorem ema_self_of_dvd {s : Acc} {k : BitVec 4} (hs : 2 ^ k.toNat ∣ s.toNat) : ema s s k = s := by
  rw [ema_eq_self_iff, Nat.mod_eq_zero_of_dvd hs, add_zero]

/-- From above a multiple of `2^k` the result does not fall below it (R95). -/
theorem le_ema_toNat_of_dvd {a s : Acc} {k : BitVec 4} (hs : 2 ^ k.toNat ∣ s.toNat) (h : s.toNat ≤ a.toNat) :
    s.toNat ≤ (ema a s k).toNat := by
  have hmono := ema_toNat_mono h le_rfl (s := s) k
  rwa [ema_self_of_dvd hs] at hmono

/-! Repeated updates (R95). -/

section
variable {α : Type} {f : α → α}

theorem iterate_keeps {P : α → Prop} (hP : ∀ x, P x → P (f x)) {x : α} (hx : P x) (n : Nat) : P (f^[n] x) := by
  induction n with
  | zero => exact hx
  | succ n ih => rw [Function.iterate_succ_apply']; exact hP _ ih

/-- A sequence that has reached a fixed point stays there. -/
theorem iterate_eq_of_fixed {x a : α} {n : Nat} (hn : f^[n] x = a) (ha : f a = a) {m : Nat} (hm : n ≤ m) :
    f^[m] x = a := by
  rw [← Nat.sub_add_cancel hm, Function.iterate_add_apply, hn, Function.iterate_fixed ha]

/-- A sequence that makes progress towards a bound, off the fixed points, stops at a fixed point. -/
theorem exists_iterate_fixed {P : α → Prop} (μ : α → Nat) (hP : ∀ x, P x → P (f x))
    (hμ : ∀ x, P x → f x ≠ x → μ (f x) < μ x) {x : α} (hx : P x) : ∃ n a, f^[n] x = a ∧ f a = a ∧ P a := by
  induction hd : μ x using Nat.strong_induction_on generalizing x with
  | _ d ih =>
    by_cases hfix : f x = x
    · exact ⟨0, x, rfl, hfix, hx⟩
    · obtain ⟨n, a, hn, ha⟩ := ih _ (hd ▸ hμ x hx hfix) (hP x hx) rfl
      exact ⟨n + 1, a, hn, ha⟩

end

/-- An average on its way up to a constant input: it has not passed it, and the next update does not lower it. -/
def rising (s : Acc) (k : BitVec 4) (x : Acc) : Prop := x.toNat ≤ s.toNat ∧ x.toNat ≤ (ema x s k).toNat

theorem rising_zero (s : Acc) (k : BitVec 4) : rising s k 0 := ⟨Nat.zero_le _, Nat.zero_le _⟩

theorem rising_ema {s : Acc} {k : BitVec 4} (x : Acc) (h : rising s k x) : rising s k (ema x s k) :=
  ⟨ema_toNat_le h.1 le_rfl k, ema_toNat_mono h.2 le_rfl k⟩

theorem rising_progress {s : Acc} {k : BitVec 4} (x : Acc) (h : rising s k x) (hne : ema x s k ≠ x) :
    s.toNat - (ema x s k).toNat < s.toNat - x.toNat := by
  obtain ⟨hle, hup⟩ := h
  have hneNat : (ema x s k).toNat ≠ x.toNat := fun h => hne (BitVec.toNat_inj.1 h)
  have hnext := ema_toNat_le hle le_rfl k
  omega

/-- Rising from 0 to a fixed point, within the bounds of R95. -/
theorem iterate_ema_rises (s : Acc) (k : BitVec 4) : ∃ (n : Nat) (a : Acc),
    (∀ m, n ≤ m → (fun x => ema x s k)^[m] 0 = a) ∧
    (∀ m, ((fun x => ema x s k)^[m] 0).toNat ≤ ((fun x => ema x s k)^[m + 1] 0).toNat) ∧
    a.toNat ≤ s.toNat ∧ s.toNat ≤ a.toNat + (2 ^ k.toNat - 1) * 2 ^ k.toNat := by
  obtain ⟨n, a, hn, ha, -⟩ := exists_iterate_fixed (f := fun x => ema x s k) (fun x => s.toNat - x.toNat)
    rising_ema rising_progress (rising_zero s k)
  refine ⟨n, a, fun m => iterate_eq_of_fixed hn ha, fun m => ?_, ?_⟩
  · rw [Function.iterate_succ_apply']
    exact (iterate_keeps rising_ema (rising_zero s k) m).2
  · have hsum := fixedPoint_add_deficit ha
    have hdef := emaDeficit_le a.toNat s.toNat k.toNat
    rw [mul_comm] at hdef
    omega

/-- Falling from above a multiple of `2^k` to exactly it (R95). -/
theorem iterate_ema_falls {a s : Acc} {k : BitVec 4} (hs : 2 ^ k.toNat ∣ s.toNat) (h : s.toNat ≤ a.toNat) :
    ∃ n, ∀ m, n ≤ m → (fun x => ema x s k)^[m] a = s := by
  have hprogress (x : Acc) (hx : s.toNat ≤ x.toNat) (hne : ema x s k ≠ x) : (ema x s k).toNat < x.toNat :=
    lt_of_le_of_ne (ema_toNat_le le_rfl hx k) fun h => hne (BitVec.toNat_inj.1 h)
  obtain ⟨n, b, hn, hb, hsb⟩ := exists_iterate_fixed (f := fun x => ema x s k) BitVec.toNat
    (fun _ => le_ema_toNat_of_dvd hs) hprogress h
  have hbs : b = s := BitVec.toNat_inj.1 (le_antisymm (Nat.le.intro (fixedPoint_add_deficit hb)) hsb)
  exact ⟨n, fun m hm => (iterate_eq_of_fixed hn hb hm).trans hbs⟩

/-! The statements. -/

/-- Settles O10: the closed formula, its product at most `a` since the quotient times `2^k` is, and the bound of R92. -/
theorem emaExactAndBounded : Obligations.EmaExactAndBounded := fun a s k =>
  ⟨ema_toNat a s k, (Nat.mul_le_mul_left _ (Nat.sub_le _ 1)).trans (Nat.div_mul_le_self _ _), ema_toNat_le_max a s k⟩

/-- Settles O11: the closed form, the law with its deficit, and the deficit's bound and zeros. -/
theorem emaTruncationLaw : Obligations.EmaTruncationLaw := fun a s k =>
  ⟨ema_toNat_add a s k, two_pow_mul_ema a s k, emaDeficit_le _ _ _, emaDeficit_eq_zero_iff _ _ _⟩

/-- Settles O12: the bounds and monotonicity for every input, the source's property from the law with deficit 0, and the
counterexamples by evaluation. -/
theorem emaMonotoneBounds : Obligations.EmaMonotoneBounds := by
  refine ⟨fun a s k => ⟨le_ema_toNat_add (min_le_left _ _) (min_le_right _ _) k, ema_toNat_le_max a s k⟩,
    fun a a' s s' k ha hs => ema_toNat_mono ha hs k, fun a s k ha hs => ⟨fun h => ?_, fun h => ?_, ?_⟩, by decide⟩
  · exact ⟨lt_ema_toNat_of_dvd ha hs h, ema_toNat_le h.le le_rfl k⟩
  · exact ⟨le_ema_toNat_of_dvd hs h.le, ema_toNat_lt_of_dvd ha hs h⟩
  · rintro rfl
    exact ema_self_of_dvd hs

/-- Settles O13: the two ways to a fixed point, the fixed-point condition, and the rule's sequences by evaluation. -/
theorem emaSteadyState : Obligations.EmaSteadyState :=
  ⟨iterate_ema_rises, fun _ _ _ => iterate_ema_falls, ema_eq_self_iff, by decide +kernel,
    ⟨32, fun _ => iterate_eq_of_fixed (by decide +kernel) (by decide +kernel)⟩,
    ⟨57, fun _ => iterate_eq_of_fixed (by decide +kernel) (by decide +kernel)⟩, by decide +kernel, by decide +kernel⟩

end Sys2Proof.Machine
end

section
/-! The capture tracker (R100 to R108): a handler operation as an update of the measurement state, the elapsed count over the
naturals and by its cases, and one further wrap as 65536 more cycles. -/

namespace Sys2Proof.Machine

/-! The two operations in and outside mode FREQUENCY (R100, R101, R104). -/

/-- A handler operation writes what it makes of the measurement state, and answers Ok (R214). -/
theorem exec_handler_of_meas {i : Instr} {s : State} {m : Measurement} (hi : contextOf i ≠ .mainLoop)
    (hm : measurementAfter s.cfg s.meas i = m) :
    exec i s = .next { s with meas := m, handlerResults := s.handlerResults ++ [.ok 0 0] } := by
  rw [exec_handler hi, handle, hm]; rfl

theorem exec_overflow_of_frequency {s : State} (h : s.meas.mode = .frequency) :
    exec .overflow s = .next { s with
      meas := { s.meas with overflowCount := s.meas.overflowCount + 1 }
      handlerResults := s.handlerResults ++ [.ok 0 0] } :=
  exec_handler_of_meas (by decide) (overflowStep_of_frequency h)

theorem exec_overflow_of_ne {s : State} (h : s.meas.mode ≠ .frequency) :
    exec .overflow s = .next { s with handlerResults := s.handlerResults ++ [.ok 0 0] } :=
  exec_handler_of_meas (by decide) (overflowStep_of_ne h)

theorem exec_capture_of_frequency {s : State} (h : s.meas.mode = .frequency) (c : BitVec 16) :
    exec (.capture c) s = .next { s with
      meas := { s.meas with
        average := ema s.meas.average (elapsed c s.meas.lastCapture s.meas.overflowCount) s.cfg.shiftFreq
        lastCapture := c
        overflowCount := 0
        captureCount := countCapture s.meas.captureCount }
      handlerResults := s.handlerResults ++ [.ok 0 0] } :=
  exec_handler_of_meas nofun (captureStep_of_frequency h s.cfg c)

theorem exec_capture_of_ne {s : State} (h : s.meas.mode ≠ .frequency) (c : BitVec 16) :
    exec (.capture c) s = .next { s with handlerResults := s.handlerResults ++ [.ok 0 0] } :=
  exec_handler_of_meas nofun (captureStep_of_ne h s.cfg c)

/-! The two counters (R102, R107). -/

theorem add_one_eq_ofNat_mod (n : BitVec 8) : n + 1 = BitVec.ofNat 8 ((n.toNat + 1) % 256) := by
  apply BitVec.eq_of_toNat_eq
  rw [BitVec.toNat_add, BitVec.toNat_ofNat, Nat.mod_mod]
  rfl

theorem countCapture_eq_ofNat_min (n : BitVec 8) : countCapture n = BitVec.ofNat 8 (min (n.toNat + 1) 255) := by
  unfold countCapture
  split
  · next hfull => rw [hfull]; rfl
  · next hne =>
    have hlt : n.toNat + 1 ≤ 255 := by bv_omega
    rw [Nat.min_eq_left hlt, add_one_eq_ofNat_mod, Nat.mod_eq_of_lt (Nat.lt_succ_of_le hlt)]

/-! The elapsed count (R105). -/

section
variable (c last : BitVec 16) (ovf : BitVec 8)

theorem elapsed_toNat :
    (elapsed c last ovf).toNat = (c.toNat + 2 ^ 32 - last.toNat + ovf.toNat * 65536) % 2 ^ 32 := by
  have hlast := last.isLt
  have hovf := ovf.isLt
  rw [elapsed, BitVec.toNat_add, BitVec.toNat_sub, BitVec.toNat_shiftLeft, Nat.shiftLeft_eq, zext32_toNat (by norm_num),
    zext32_toNat (by norm_num), zext32_toNat (by norm_num)]
  omega

theorem elapsed_eq_ofNat :
    elapsed c last ovf = BitVec.ofNat 32 ((c.toNat + 2 ^ 32 - last.toNat + ovf.toNat * 65536) % 2 ^ 32) := by
  rw [← elapsed_toNat, BitVec.ofNat_toNat, BitVec.setWidth_eq]

variable {c last ovf}

theorem elapsed_toNat_of_le (h : last.toNat ≤ c.toNat) :
    (elapsed c last ovf).toNat = c.toNat - last.toNat + ovf.toNat * 65536 := by
  have hc := c.isLt
  have hovf := ovf.isLt
  rw [elapsed_toNat]
  omega

/-- Below the last capture, a counted wrap makes up for the missing cycles. -/
theorem elapsed_toNat_add_of_wrap (h : c.toNat < last.toNat) (hovf : 1 ≤ ovf.toNat) :
    (elapsed c last ovf).toNat + last.toNat = c.toNat + ovf.toNat * 65536 := by
  have hlast := last.isLt
  have hbyte := ovf.isLt
  rw [elapsed_toNat]
  omega

theorem elapsed_toNat_of_no_wrap (h : c.toNat < last.toNat) (hovf : ovf.toNat = 0) :
    (elapsed c last ovf).toNat = 2 ^ 32 - (last.toNat - c.toNat) := by
  have hlast := last.isLt
  rw [elapsed_toNat, hovf]
  omega

/-- Short of the counter's own wrap at 256, one more overflow is 65536 more cycles, whatever the two captures (R102). -/
theorem elapsed_succ (h : ovf.toNat < 255) : elapsed c last (ovf + 1) = elapsed c last ovf + 65536 := by
  have hone : (ovf + 1).toNat = ovf.toNat + 1 := by bv_omega
  apply BitVec.eq_of_toNat_eq
  have hwrap : (65536 : Acc).toNat = 65536 := rfl
  rw [BitVec.toNat_add, elapsed_toNat, elapsed_toNat, hone, hwrap]
  omega

end

/-! The statements. -/

/-- Settles O23: the two operations outside mode FREQUENCY. -/
theorem timerEventsGatedByMode : Obligations.TimerEventsGatedByMode := fun _ c h =>
  ⟨exec_overflow_of_ne h, exec_capture_of_ne h c⟩

/-- Settles O20: its word, then the operation in and outside mode FREQUENCY. -/
theorem overflowCounts : Obligations.OverflowCounts := by
  refine ⟨rfl, decode_encode (i := .overflow) rfl, fun s h => ?_, fun _ => exec_overflow_of_ne⟩
  rw [← add_one_eq_ofNat_mod]
  exact exec_overflow_of_frequency h

/-- Settles O22: the modular value, from it the three cases with their bounds, and the example by evaluation. -/
theorem elapsedByCases : Obligations.ElapsedByCases := by
  refine ⟨fun c last ovf => ⟨elapsed_toNat c last ovf, fun h => ?_, elapsed_toNat_add_of_wrap, fun h hovf => ?_⟩, by decide⟩
  · have he := elapsed_toNat_of_le (ovf := ovf) h
    have hc := c.isLt
    have hovf := ovf.isLt
    exact ⟨he, by omega⟩
  · have he := elapsed_toNat_of_no_wrap h hovf
    have hlast := last.isLt
    exact ⟨he, by omega⟩

/-- Settles O21: its word, the four writes with the elapsed count and the saturating count as numbers, and the gate. -/
theorem captureFoldsElapsed : Obligations.CaptureFoldsElapsed := by
  refine ⟨fun c => ⟨?_, decode_encode rfl⟩, fun s c h => ?_, fun _ c h => exec_capture_of_ne h c⟩
  · have hc : (c.setWidth 32).toNat = c.toNat := zext32_toNat (by norm_num) c
    rw [encode, commandWord_toNat, hc]
    rfl
  · dsimp only
    rw [← elapsed_eq_ofNat, ← countCapture_eq_ofNat_min]
    exact exec_capture_of_frequency h c

/-- Settles O24: both orders run, and a wrap adds the same 65536 cycles to whichever period it is counted in. -/
theorem coincidentWrapAndEdge : Obligations.CoincidentWrapAndEdge := by
  intro s c c' n hf hovf hn m
  have htotal : elapsed c m.lastCapture (m.overflowCount + 1) + elapsed c' c n =
      elapsed c m.lastCapture m.overflowCount + elapsed c' c (n + 1) := by
    rw [elapsed_succ hovf, elapsed_succ hn, add_right_comm, add_assoc]
  refine ⟨_, _, _, _, exec_overflow_of_frequency hf, exec_capture_of_frequency ?afterOverflow c,
    exec_capture_of_frequency hf c, exec_overflow_of_frequency ?afterCapture, rfl, rfl, rfl, rfl, rfl, rfl, htotal⟩
  case afterOverflow => exact hf
  case afterCapture => exact hf

end Sys2Proof.Machine
end

section
/-! The sample paths (R120 to R130): SAMPLE as the update of its mode's path, the first half-cycle after mode-entry, and the
folds of the peak tracker counted along a sequence of samples. -/

namespace Sys2Proof.Machine

/-! A sample in the three modes without a peak tracker (R121, R122, R128). -/

theorem sampleStep_of_dc {m : Measurement} (h : m.mode = .dc) (c : Cfg) (x : BitVec 12) :
    sampleStep c x m = dcStep c x m := by simp [sampleStep, h]

theorem sampleStep_of_frequency {m : Measurement} (h : m.mode = .frequency) (c : Cfg) (x : BitVec 12) :
    sampleStep c x m = m := by simp [sampleStep, h]

theorem sampleStep_of_pseudoRms {m : Measurement} (h : m.mode = .pseudoRms) (c : Cfg) (x : BitVec 12) :
    sampleStep c x m = rectStep c x m := by simp [sampleStep, h]

/-- SAMPLE writes what its mode's path makes of the measurement state, and answers Ok (R120, R214). -/
theorem exec_sample_of_sampleStep {x : BitVec 12} {s : State} {m : Measurement} (h : sampleStep s.cfg x s.meas = m) :
    exec (.sample x) s = .next { s with meas := m, handlerResults := s.handlerResults ++ [.ok 0 0] } :=
  exec_handler_of_meas nofun h

/-- The operand of the pseudo-RMS fold as a number: the distance of the sample from the baseline (R128). -/
theorem zext32_rectified (b x : BitVec 12) :
    zext32 (rectified b x) =
      BitVec.ofNat 32 (if b.toNat ≤ x.toNat then x.toNat - b.toNat else b.toNat - x.toNat) := by
  rw [← rectified_toNat, BitVec.ofNat_toNat, zext32]

/-- The farthest sample from the baseline is 0 or 4095 (R128). -/
theorem rectified_toNat_le (b x : BitVec 12) : (rectified b x).toNat ≤ max b.toNat (4095 - b.toNat) := by
  have hx := x.isLt
  rw [rectified_toNat]
  split <;> omega

/-! The first half-cycle after mode-entry (R129). -/

/-- The comparison of R126 is strict, but a sample equal to the held maximum is that maximum. -/
theorem raiseMaximum_of_le {x : BitVec 12} {m : Measurement} (h : m.currentMaxSample.toNat ≤ x.toNat) :
    raiseMaximum x m = { m with currentMaxSample := x } := by
  rw [raiseMaximum_eq]
  split
  · rfl
  · next hge =>
    have heq : m.currentMaxSample = x := by bv_omega
    rw [heq]

section
variable {mode : Mode} (hpeak : mode = .zeroToPeak ∨ mode = .peakToPeak)
include hpeak

/-- The held minimum is 0 after mode-entry, and no sample is strictly below it. -/
theorem sampleStep_enterMode_below {c : Cfg} {y : BitVec 12} (hy : y.toNat < c.baseline.toNat) :
    sampleStep c y (enterMode mode) = enterMode mode := by
  have hmin : ¬y < (enterMode mode).currentMinSample := Nat.not_lt_zero _
  rw [sampleStep_peak hpeak, peakStep_stay_below (Nat.not_le_of_lt hy) rfl, lowerMinimum_eq, if_neg hmin]
  rfl

theorem foldl_sampleStep_enterMode {c : Cfg} {xs : List (BitVec 12)} (hxs : ∀ y ∈ xs, y.toNat < c.baseline.toNat) :
    xs.foldl (fun m y => sampleStep c y m) (enterMode mode) = enterMode mode := by
  induction xs with
  | nil => rfl
  | cons y ys ih =>
    obtain ⟨hy, hys⟩ := List.forall_mem_cons.1 hxs
    rw [List.foldl_cons, sampleStep_enterMode_below hpeak hy, ih hys]

/-- The first sample at or above the baseline folds the held minimum 0 into an average of 0, and is the held maximum. -/
theorem sampleStep_enterMode_above {c : Cfg} {x : BitVec 12} (hx : c.baseline.toNat ≤ x.toNat) :
    sampleStep c x (enterMode mode) =
      { enterMode mode with currentMinSample := c.baseline, currentMaxSample := x, polarity := .above } := by
  have hfold : ema 0 (zext32 (0 : BitVec 12)) c.shiftPeak = 0 := ema_self_of_dvd (dvd_zero _)
  rw [sampleStep_peak hpeak, peakStep_rising hx rfl, raiseMaximum_of_le (Nat.zero_le _), foldMinimum_eq]
  simp only [enterMode, hfold]

end

/-! Folds along a sequence of samples (R130). The polarity is the side of the sample before, so a fold is a crossing. -/

theorem risingCrossing_sideOf_iff (b x y : BitVec 12) :
    risingCrossing b y (sideOf b x) = true ↔ x.toNat < b.toNat ∧ b.toNat ≤ y.toNat := by
  rw [risingCrossing_iff, sideOf_eq_below_iff, and_comm]

theorem fallingCrossing_sideOf_iff (b x y : BitVec 12) :
    fallingCrossing b y (sideOf b x) = true ↔ b.toNat ≤ x.toNat ∧ y.toNat < b.toNat := by
  rw [fallingCrossing_iff, sideOf_eq_above_iff, and_comm]

/-- A sample of a peak mode leaves its own side of the baseline as the polarity, and the mode a peak mode (R127). -/
theorem sampleStep_peak_next {m : Measurement} (h : m.mode = .zeroToPeak ∨ m.mode = .peakToPeak) (c : Cfg)
    (x : BitVec 12) :
    ((sampleStep c x m).mode = .zeroToPeak ∨ (sampleStep c x m).mode = .peakToPeak) ∧
      (sampleStep c x m).polarity = sideOf c.baseline x := by
  rw [sampleStep_mode, sampleStep_peak h, peakStep_polarity]
  exact ⟨h, rfl⟩

/-- After a sample `x`, the tracker folds at the crossings of the sequence that begins with `x`. -/
theorem folds_eq_steps {c : Cfg} {m : Measurement} {x : BitVec 12} (hm : m.mode = .zeroToPeak ∨ m.mode = .peakToPeak)
    (hp : m.polarity = sideOf c.baseline x) (xs : List (BitVec 12)) :
    risingFolds c m xs = upwardSteps c.baseline (x :: xs) ∧
      fallingFolds c m xs = downwardSteps c.baseline (x :: xs) := by
  induction xs generalizing m x with
  | nil => exact ⟨rfl, rfl⟩
  | cons y ys ih =>
    obtain ⟨hmode, hpol⟩ := sampleStep_peak_next hm c y
    obtain ⟨hrising, hfalling⟩ := ih hmode hpol
    simp only [risingFolds, fallingFolds, upwardSteps, downwardSteps, hp, risingCrossing_sideOf_iff,
      fallingCrossing_sideOf_iff, hrising, hfalling, and_self]

/-! The statements. -/

/-- Settles O16: the tracker's four cases, with both parts of each written out as one record. -/
theorem sampleInPeakModes : Obligations.SampleInPeakModes := by
  intro s x hpeak
  have hexec {m : Measurement} (hm : peakStep s.cfg x s.meas = m) :=
    exec_sample_of_sampleStep ((sampleStep_peak hpeak s.cfg x).trans hm)
  refine ⟨fun hx hp => hexec ?rising, fun hx hp => hexec ?stayAbove, fun hx hp => hexec ?falling,
    fun hx hp => hexec ?stayBelow⟩
  case rising => rw [peakStep_rising hx hp, raiseMaximum_eq]; rfl
  case stayAbove => rw [peakStep_stay_above hx hp, raiseMaximum_eq, ← hp]; rfl
  case falling => rw [peakStep_falling (Nat.not_le_of_lt hx) hp, lowerMinimum_eq]; rfl
  case stayBelow => rw [peakStep_stay_below (Nat.not_le_of_lt hx) hp, lowerMinimum_eq, ← hp]; rfl

/-- Settles O17: the samples below the baseline, then the first one at or above it. -/
theorem firstHalfCycle : Obligations.FirstHalfCycle := fun _ _ _ _ hpeak hxs hx =>
  ⟨foldl_sampleStep_enterMode hpeak hxs, sampleStep_enterMode_above hpeak hx⟩

/-- Settles O18: from polarity BELOW the first sample makes a rising fold or none, and each later one is compared with the
sample before it. -/
theorem foldsCountCrossings : Obligations.FoldsCountCrossings := by
  intro c m xs hpeak hp
  cases xs with
  | nil => exact ⟨by simp [risingFolds, upwardSteps], rfl⟩
  | cons x xs =>
    obtain ⟨hmode, hpol⟩ := sampleStep_peak_next hpeak c x
    obtain ⟨hrising, hfalling⟩ := folds_eq_steps hmode hpol xs
    constructor
    · simp [risingFolds, hrising, hp, risingCrossing_iff, add_comm]
    · simp [fallingFolds, hfalling, hp, fallingCrossing_iff]

/-- Settles O19: the bound on the magnitude, and the fold with the magnitude as a number. -/
theorem sampleInPseudoRmsMode : Obligations.SampleInPseudoRmsMode := by
  intro s x h
  dsimp only
  rw [← zext32_rectified, ← rectified_toNat]
  exact ⟨rectified_toNat_le _ _, exec_sample_of_sampleStep ((sampleStep_of_pseudoRms h _ _).trans (rectStep_eq _ _ _))⟩

/-- Settles O14: the DC path, and the rule's example by evaluation. -/
theorem sampleInDcMode : Obligations.SampleInDcMode :=
  ⟨fun _ _ h => exec_sample_of_sampleStep ((sampleStep_of_dc h _ _).trans (dcStep_eq _ _ _)), by decide⟩

/-- Settles O15: the mode has no sample path. -/
theorem sampleInFrequencyMode : Obligations.SampleInFrequencyMode := fun _ _ h =>
  exec_sample_of_sampleStep (sampleStep_of_frequency h _ _)

end Sys2Proof.Machine
end

section
/-! MODE and RENDER (R140 to R156): the result of RENDER mode by mode, the exact value of an Ok result with the bounds that keep
it within 32 bits, and the response word of each result. -/

namespace Sys2Proof.Machine

/-! The result in each mode, the checks read as comparisons of numbers and the shifts as divisions (R146 to R153). -/

section
variable {m : Measurement} (c : Cfg)

theorem renderResult_of_dc (h : m.mode = .dc) :
    renderResult c m = .ok (BitVec.ofNat 32 (m.average.toNat * c.kV.toNat / 1024)) 4 := by
  simp only [renderResult, h, renderDc, Nat.shiftRight_eq_div_pow, Nat.reducePow]

theorem renderResult_of_frequency (h : m.mode = .frequency) :
    renderResult c m =
      if m.captureCount.toNat ≤ c.nSettle.toNat then .notYetValid
      else if m.average.toNat < c.avgFMin.toNat ∨ c.avgFMax.toNat < m.average.toNat then .outOfRange
      else .ok (BitVec.ofNat 32 (c.kF.toNat / m.average.toNat)) c.dpPos.frequency := by
  simp only [renderResult, h, renderFrequency, notYetValid, outOfBand, decimalPointOf, BitVec.le_def, BitVec.lt_def,
    Bool.or_eq_true, decide_eq_true_iff]

theorem renderResult_of_zeroToPeak (h : m.mode = .zeroToPeak) :
    renderResult c m =
      if m.maxAverage.toNat < c.baseline.toNat then .outOfRange
      else .ok (BitVec.ofNat 32 (2 * (m.maxAverage.toNat - c.baseline.toNat) * c.kV.toNat / 1024)) c.dpPos.zeroToPeak := by
  simp only [renderResult, h, renderZeroToPeak, decimalPointOf, Nat.shiftRight_eq_div_pow, Nat.reducePow]

theorem renderResult_of_peakToPeak (h : m.mode = .peakToPeak) :
    renderResult c m =
      if m.maxAverage.toNat < m.minAverage.toNat then .outOfRange
      else .ok (BitVec.ofNat 32 ((m.maxAverage.toNat - m.minAverage.toNat) * c.kV.toNat / 512)) c.dpPos.peakToPeak := by
  simp only [renderResult, h, renderPeakToPeak, decimalPointOf, Nat.shiftRight_eq_div_pow, Nat.reducePow]

theorem renderResult_of_pseudoRms (h : m.mode = .pseudoRms) :
    renderResult c m = .ok (BitVec.ofNat 32 (2 * m.rectAverage.toNat * c.kV.toNat / 1024)) c.dpPos.pseudoRms := by
  simp only [renderResult, h, renderPseudoRms, decimalPointOf, Nat.shiftRight_eq_div_pow, Nat.reducePow]

end

/-! Products and quotients fit 32 bits (R151). -/

/-- A count of at most 4095 times the 16-bit `K_V`. -/
theorem count_mul_kV_le {x : Nat} (hx : x ≤ 4095) (k : BitVec 16) : x * k.toNat ≤ 4095 * 65535 :=
  Nat.mul_le_mul hx (Nat.le_pred_of_lt k.isLt)

theorem count_mul_kV_lt {x : Nat} (hx : x ≤ 4095) (k : BitVec 16) : x * k.toNat < 2 ^ 28 :=
  (count_mul_kV_le hx k).trans_lt (by norm_num)

theorem two_mul_count_mul_kV_lt {x : Nat} (hx : x ≤ 4095) (k : BitVec 16) : 2 * x * k.toNat < 2 ^ 29 := by
  have h := count_mul_kV_lt hx k
  rw [Nat.mul_assoc]
  omega

/-- The two peak modes use the same scale. -/
theorem two_mul_div_1024 (x k : Nat) : 2 * x * k / 1024 = x * k / 512 := by
  rw [Nat.mul_assoc]
  exact Nat.mul_div_mul_left (x * k) 512 (by norm_num)

/-- The band keeps a legal configuration's divisor above 0 (R2, R147). -/
theorem average_pos_of_band {c : Cfg} (hc : cfgLegal c = true) {a : Acc} (h : c.avgFMin.toNat ≤ a.toNat) : 0 < a.toNat := by
  obtain ⟨hmin, -⟩ := (cfgLegal_iff c).1 hc
  exact Nat.lt_of_lt_of_le hmin h

/-! The value of an Ok result is the exact value of its formula (R151). -/

/-- Narrowing to the 32 bits of the response's value cuts nothing off a number below 2^32. -/
theorem exists_value_of_ok {r : Result} {n : Nat} {dp : BitVec 4} (h : r = .ok (BitVec.ofNat 32 n) dp) (hn : n < 2 ^ 32) :
    ∃ value, r = .ok value dp ∧ value.toNat = n :=
  ⟨_, h, (BitVec.toNat_ofNat n 32).trans (Nat.mod_eq_of_lt hn)⟩

section
variable {m : Measurement} (c : Cfg)

theorem renderResult_dc_value (h : m.mode = .dc) (havg : m.average.toNat ≤ 4095) :
    ∃ value, renderResult c m = .ok value 4 ∧ value.toNat = m.average.toNat * c.kV.toNat / 1024 := by
  have hfit := count_mul_kV_lt havg c.kV
  exact exists_value_of_ok (renderResult_of_dc c h) (by omega)

theorem renderResult_frequency_value (h : m.mode = .frequency) (hsettled : c.nSettle.toNat < m.captureCount.toNat)
    (hmin : c.avgFMin.toNat ≤ m.average.toNat) (hmax : m.average.toNat ≤ c.avgFMax.toNat) :
    ∃ value, renderResult c m = .ok value c.dpPos.frequency ∧ value.toNat = c.kF.toNat / m.average.toNat := by
  have hband : ¬(m.average.toNat < c.avgFMin.toNat ∨ c.avgFMax.toNat < m.average.toNat) := by omega
  refine exists_value_of_ok ?_ (Nat.lt_of_le_of_lt (Nat.div_le_self _ _) c.kF.isLt)
  rw [renderResult_of_frequency c h, if_neg (Nat.not_le_of_lt hsettled), if_neg hband]

theorem renderResult_zeroToPeak_value (h : m.mode = .zeroToPeak) (hmax : m.maxAverage.toNat ≤ 4095)
    (hge : c.baseline.toNat ≤ m.maxAverage.toNat) :
    ∃ value, renderResult c m = .ok value c.dpPos.zeroToPeak ∧
      value.toNat = 2 * (m.maxAverage.toNat - c.baseline.toNat) * c.kV.toNat / 1024 := by
  have hfit := two_mul_count_mul_kV_lt ((Nat.sub_le _ c.baseline.toNat).trans hmax) c.kV
  refine exists_value_of_ok ?_ (by omega)
  rw [renderResult_of_zeroToPeak c h, if_neg (Nat.not_lt_of_le hge)]

theorem renderResult_peakToPeak_value (h : m.mode = .peakToPeak) (hmax : m.maxAverage.toNat ≤ 4095)
    (hge : m.minAverage.toNat ≤ m.maxAverage.toNat) :
    ∃ value, renderResult c m = .ok value c.dpPos.peakToPeak ∧
      value.toNat = (m.maxAverage.toNat - m.minAverage.toNat) * c.kV.toNat / 512 := by
  have hfit := count_mul_kV_lt ((Nat.sub_le _ m.minAverage.toNat).trans hmax) c.kV
  refine exists_value_of_ok ?_ (by omega)
  rw [renderResult_of_peakToPeak c h, if_neg (Nat.not_lt_of_le hge)]

theorem renderResult_pseudoRms_value (h : m.mode = .pseudoRms) (hrect : m.rectAverage.toNat ≤ 4095) :
    ∃ value, renderResult c m = .ok value c.dpPos.pseudoRms ∧
      value.toNat = 2 * m.rectAverage.toNat * c.kV.toNat / 1024 := by
  have hfit := two_mul_count_mul_kV_lt hrect c.kV
  exact exists_value_of_ok (renderResult_of_pseudoRms c h) (by omega)

/-! An Ok result has passed the checks of its mode, so no subtraction goes below zero (R151). -/

variable {c} {value : BitVec 32} {dp : BitVec 4} (hok : renderResult c m = .ok value dp)
include hok

theorem checks_of_frequency_ok (h : m.mode = .frequency) :
    c.nSettle.toNat < m.captureCount.toNat ∧ c.avgFMin.toNat ≤ m.average.toNat ∧ m.average.toNat ≤ c.avgFMax.toNat := by
  rw [renderResult_of_frequency c h] at hok
  split at hok
  · cases hok
  split at hok
  · cases hok
  · omega

theorem check_of_zeroToPeak_ok (h : m.mode = .zeroToPeak) : c.baseline.toNat ≤ m.maxAverage.toNat := by
  rw [renderResult_of_zeroToPeak c h] at hok
  split at hok
  · cases hok
  · next hge => exact Nat.le_of_not_lt hge

theorem check_of_peakToPeak_ok (h : m.mode = .peakToPeak) : m.minAverage.toNat ≤ m.maxAverage.toNat := by
  rw [renderResult_of_peakToPeak c h] at hok
  split at hok
  · cases hok
  · next hge => exact Nat.le_of_not_lt hge

end

/-! RENDER writes no register and answers one response word (R145, R155). -/

theorem exec_render_next_iff (s t : State) :
    exec .render s = .next t ↔ s.drv.stage = .free ∧ s.respond (renderResult s.cfg s.meas) = t := whenReady_next_iff s _ t

theorem exec_render_of_result {s : State} {r : Result} (hs : s.drv.stage = .free) (h : renderResult s.cfg s.meas = r) :
    exec .render s = .next { s with responses := s.responses ++ [responseWord r] } := by
  subst h
  exact (exec_render_next_iff s _).2 ⟨hs, rfl⟩

/-- The response word of an Ok as a number: the value below the position, the result code 0 (R64). -/
theorem responseWord_of_value {r : Result} {n : Nat} {dp : BitVec 4} (h : ∃ value, r = .ok value dp ∧ value.toNat = n) :
    responseWord r = BitVec.ofNat 40 (dp.toNat * 2 ^ 32 + n) := by
  obtain ⟨value, rfl, rfl⟩ := h
  have hword : (commandWord 0 dp value).toNat = dp.toNat * 2 ^ 32 + value.toNat := by simp [commandWord_toNat]
  rw [responseWord_ok, ← hword, BitVec.ofNat_toNat, BitVec.setWidth_eq]

theorem exec_render_of_value {s : State} {n : Nat} {dp : BitVec 4} (hs : s.drv.stage = .free)
    (h : ∃ value, renderResult s.cfg s.meas = .ok value dp ∧ value.toNat = n) :
    exec .render s = .next { s with responses := s.responses ++ [BitVec.ofNat 40 (dp.toNat * 2 ^ 32 + n)] } := by
  rw [← responseWord_of_value h]
  exact exec_render_of_result hs rfl

/-! RENDER of a freshly entered mode (R156). -/

@[simp] theorem enterMode_mode (mode : Mode) : (enterMode mode).mode = mode := rfl
@[simp] theorem enterMode_average (mode : Mode) : (enterMode mode).average = 0 := rfl
@[simp] theorem enterMode_minAverage (mode : Mode) : (enterMode mode).minAverage = 0 := rfl
@[simp] theorem enterMode_maxAverage (mode : Mode) : (enterMode mode).maxAverage = 0 := rfl
@[simp] theorem enterMode_rectAverage (mode : Mode) : (enterMode mode).rectAverage = 0 := rfl
@[simp] theorem enterMode_captureCount (mode : Mode) : (enterMode mode).captureCount = 0 := rfl

theorem responseWord_ok_zero (dp : BitVec 4) : responseWord (.ok 0 dp) = BitVec.ofNat 40 (dp.toNat * 2 ^ 32) := by
  have hword : responseWord (.ok 0 dp) = BitVec.ofNat 40 (dp.toNat * 2 ^ 32 + 0) := responseWord_of_value ⟨0, rfl, rfl⟩
  rwa [Nat.add_zero] at hword

/-- Every average is 0 after mode-entry and no capture has been consumed, so an Ok carries the value 0. -/
theorem responseWord_of_freshMode (c : Cfg) (mode : Mode) :
    responseWord (renderResult c (enterMode mode)) = freshModeResponse c mode := by
  cases mode with
  | dc =>
    have hresult : renderResult c (enterMode .dc) = .ok 0 4 := by
      simp [renderResult_of_dc c (enterMode_mode .dc)]
    rw [hresult]
    rfl
  | frequency =>
    have hresult : renderResult c (enterMode .frequency) = .notYetValid := by
      simp [renderResult_of_frequency c (enterMode_mode .frequency)]
    rw [hresult]
    rfl
  | zeroToPeak =>
    have hresult : renderResult c (enterMode .zeroToPeak) =
        if 0 < c.baseline.toNat then .outOfRange else .ok 0 c.dpPos.zeroToPeak := by
      simp [renderResult_of_zeroToPeak c (enterMode_mode .zeroToPeak)]
    rw [hresult, freshModeResponse, apply_ite responseWord, responseWord_ok_zero]
    rfl
  | peakToPeak =>
    have hresult : renderResult c (enterMode .peakToPeak) = .ok 0 c.dpPos.peakToPeak := by
      simp [renderResult_of_peakToPeak c (enterMode_mode .peakToPeak)]
    rw [hresult]
    exact responseWord_ok_zero _
  | pseudoRms =>
    have hresult : renderResult c (enterMode .pseudoRms) = .ok 0 c.dpPos.pseudoRms := by
      simp [renderResult_of_pseudoRms c (enterMode_mode .pseudoRms)]
    rw [hresult]
    exact responseWord_ok_zero _

/-! The statements. -/

/-- Settles O28: the three branches of the result, the last one with a divisor above 0. -/
theorem renderInFrequencyMode : Obligations.RenderInFrequencyMode := by
  intro s hc hs hmode answered
  have hresult := renderResult_of_frequency s.cfg hmode
  refine ⟨fun hearly => ?_, fun hsettled => ⟨fun hout => ?_, fun ⟨hmin, hmax⟩ => ?_⟩⟩
  · rw [if_pos hearly] at hresult
    exact exec_render_of_result hs hresult
  · rw [if_neg (Nat.not_le_of_lt hsettled), if_pos hout] at hresult
    exact exec_render_of_result hs hresult
  · exact ⟨average_pos_of_band hc hmin, Nat.div_le_self _ _,
      exec_render_of_value hs (renderResult_frequency_value s.cfg hmode hsettled hmin hmax)⟩

/-- Settles O29: below the baseline the check answers, and from the baseline on the doubled product fits. -/
theorem renderInZeroToPeakMode : Obligations.RenderInZeroToPeakMode := by
  intro s hs hmode hmax answered
  refine ⟨fun hbelow => ?_, fun hge => exec_render_of_value hs (renderResult_zeroToPeak_value s.cfg hmode hmax hge)⟩
  exact exec_render_of_result hs ((renderResult_of_zeroToPeak s.cfg hmode).trans (if_pos hbelow))

/-- Settles O30: crossed averages are answered by the check, and otherwise the product fits. -/
theorem renderInPeakToPeakMode : Obligations.RenderInPeakToPeakMode := by
  intro s hs hmode hmax answered
  refine ⟨fun hbelow => ?_, fun hge => exec_render_of_value hs (renderResult_peakToPeak_value s.cfg hmode hmax hge)⟩
  exact exec_render_of_result hs ((renderResult_of_peakToPeak s.cfg hmode).trans (if_pos hbelow))

/-- Settles O32: mode by mode the bound of the product and the exact value, then the checks an Ok has passed. -/
theorem renderProductsFit : Obligations.RenderProductsFit := by
  refine ⟨fun c m hc hbounds => ?_, fun x k => ?_⟩
  · obtain ⟨-, hmax, hrect, havg, -, -⟩ := hbounds
    refine ⟨fun h => ?dc, fun h hsettled hmin hle => ?frequency, fun h hge => ?zeroToPeak, fun h hge => ?peakToPeak,
      fun h => ?pseudoRms, fun value dp hok => ?checks⟩
    case dc =>
      exact ⟨(count_mul_kV_lt (havg h) c.kV).trans (by norm_num), renderResult_dc_value c h (havg h)⟩
    case frequency =>
      obtain ⟨value, hok, hvalue⟩ := renderResult_frequency_value c h hsettled hmin hle
      exact ⟨value, hok, hvalue, hvalue ▸ Nat.div_le_self _ _⟩
    case zeroToPeak =>
      obtain ⟨value, hok, hvalue⟩ := renderResult_zeroToPeak_value c h hmax hge
      exact ⟨two_mul_count_mul_kV_lt ((Nat.sub_le _ _).trans hmax) c.kV, value, hok, hvalue,
        hvalue.trans (two_mul_div_1024 _ _)⟩
    case peakToPeak =>
      exact ⟨(count_mul_kV_lt ((Nat.sub_le _ _).trans hmax) c.kV).trans (by norm_num),
        renderResult_peakToPeak_value c h hmax hge⟩
    case pseudoRms => exact ⟨two_mul_count_mul_kV_lt hrect c.kV, renderResult_pseudoRms_value c h hrect⟩
    case checks =>
      refine ⟨fun h => ?_, check_of_zeroToPeak_ok hok, check_of_peakToPeak_ok hok⟩
      obtain ⟨hsettled, hmin, hle⟩ := checks_of_frequency_ok hok h
      exact ⟨average_pos_of_band hc hmin, hsettled, hmin, hle⟩
  · rw [Nat.shiftRight_eq_div_pow, Nat.shiftRight_eq_div_pow]
    exact two_mul_div_1024 x k.toNat

/-- Settles O33: MODE leaves the driver idle and the configuration as it was, and RENDER leaves all that RENDER reads. -/
theorem renderOfFreshMode : Obligations.RenderOfFreshMode := by
  refine ⟨fun s t m _ hs ht => ?_, fun s t ht => ?_⟩
  · rw [exec_mode_of_idle hs] at ht
    cases ht
    rw [← responseWord_of_freshMode]
    exact exec_render_of_result hs rfl
  · obtain ⟨hs, rfl⟩ := (exec_render_next_iff s t).1 ht
    exact ⟨_, rfl, exec_render_of_result hs rfl⟩

/-- Settles O26: each word is the encoding of its operation, the reserved codes are those R67 names, and MODE writes nothing but
the measurement state and its response. -/
theorem modeEntryZeroes : Obligations.ModeEntryZeroes := by
  refine ⟨⟨decode_encode (i := .mode .dc) rfl, decode_encode (i := .mode .frequency) rfl,
    decode_encode (i := .mode .zeroToPeak) rfl, decode_encode (i := .mode .peakToPeak) rfl,
    decode_encode (i := .mode .pseudoRms) rfl⟩, fun w hlo hhi => ?_, fun s m hs => exec_mode_of_idle hs m⟩
  have hreserved : w.toNat / 2 ^ 36 = 4 ∧ 5 ≤ w.toNat % 8 := by omega
  exact decode_of_illegalWord (.inr (.inr (.inr (.inl hreserved))))

/-- Settles O27: the product of a 12-bit count and `K_V` fits, so its value is exact. -/
theorem renderInDcMode : Obligations.RenderInDcMode := by
  intro s hs hmode havg
  have hproduct := count_mul_kV_le havg s.cfg.kV
  have hposition : (4 : BitVec 4).toNat = 4 := rfl
  have hexec := exec_render_of_value hs (renderResult_dc_value s.cfg hmode havg)
  rw [hposition] at hexec
  exact ⟨count_mul_kV_lt havg s.cfg.kV, by omega, hexec⟩

/-- Settles O31: the doubled product of a 12-bit count and `K_V` fits, so its value is exact. -/
theorem renderInPseudoRmsMode : Obligations.RenderInPseudoRmsMode := fun s hs hmode hrect =>
  exec_render_of_value hs (renderResult_pseudoRms_value s.cfg hmode hrect)

end Sys2Proof.Machine
end

section
/-! The display operations with their answers written out (R171 to R184): the whole next state of TRANSMIT, DIGITS, ERRDISP and
SETUP, and what the display registers hold after a list of committed transactions. -/

namespace Sys2Proof.Machine

/-! A display operation whose answers are known. The configuration need not be legal: that an answer is `done` already says that
a wait has room for a poll. -/

section
variable {s : State} {i : Instr} {f : Frame} {later : List Frame} (hs : s.drv.stage = .free) (hw : i.wellFormed = true)
  (hf : displayFrames s.cfg i = some (f :: later))
include hs hw hf

/-- What the blocking procedure gives over some answers is what the operation gives when just these are presented. -/
theorem exec_of_refinesBlocking {answers : List Answer} {r : Result} {rest : List Input}
    (hblocking : ∀ idx, RefinesBlocking f later idx answers s) (hr : (blockingRun (f :: later) answers s.disp).2.2 = some r)
    (hi : s.inputs = operationInputs s.cfg answers ++ rest) :
    exec i s = .next (s.returned (blockingRun (f :: later) answers s.disp) r rest) := by
  rw [exec_display hs hw hf]
  obtain ⟨r', hr', hrest⟩ := hblocking (if ∃ a v, i = .transmit a v then 0 else 1)
  obtain rfl : r' = r := Option.some.inj (hr'.symm.trans hr)
  rw [hi, hrest]

/-- Every wait ending with `done`: the transactions in order, each register written, Ok (R171, R176, R180, R184). -/
theorem exec_allDone {lates : List Nat} {rest : List Input} (hlen : lates.length = 2 * (f :: later).length)
    (hlates : ∀ n ∈ lates, n < s.cfg.tTimeout) (hi : s.inputs = operationInputs s.cfg (lates.map .done) ++ rest) :
    exec i s =
      .next (s.returned ((f :: later).flatMap transactionTrace, s.disp.writeFrames (f :: later), some okDone) okDone rest) := by
  have htimeout : 0 < s.cfg.tTimeout := by
    cases lates with
    | nil => simp at hlen
    | cons n lates => exact Nat.zero_lt_of_lt (hlates n (by simp))
  have hanswers : scriptAnswers (2 * (f :: later).length) (lates.map .done) = lates.map .done := by
    rw [← hlen, scriptAnswers_allDone]
  have hblocking (idx : BitVec 4) : RefinesBlocking f later idx (lates.map .done) s := by
    rw [← hanswers]
    exact driveDisplay_refinesBlocking later f idx s _ htimeout (by simpa [Answer.inBound] using hlates)
  have hrun := blockingRun_allDone (f :: later) lates s.disp hlen
  rw [← hrun]
  exact exec_of_refinesBlocking hs hw hf hblocking (by rw [hrun]) hi

end

/-! The display registers after a list of committed transactions. -/

namespace DisplaySpace

variable {frames : List Frame}

/-- With each register addressed as `a mod 16` (R40). -/
theorem writeFrames_eq_foldl (d : DisplaySpace) (frames : List Frame) :
    d.writeFrames frames = frames.foldl (fun m f => m.write (f.addr.toNat % 16) f.value) d := by
  simp only [writeFrames, displayAddress_eq]

/-- A register that no transaction names keeps its contents (R43). -/
theorem read_writeFrames_of_not_named {a : Nat} (h : ∀ f ∈ frames, displayAddress f.addr ≠ a) (d : DisplaySpace) :
    (d.writeFrames frames).read a = d.read a := by
  induction frames generalizing d with
  | nil => rfl
  | cons f fs ih =>
    obtain ⟨hf, hfs⟩ := List.forall_mem_cons.1 h
    rw [writeFrames_cons, ih hfs, read_write, if_neg hf.symm]

/-- When no two transactions name the same register, each one's register holds its value byte (R41, R43). -/
theorem read_writeFrames_of_mem (hdistinct : frames.Pairwise fun f g => displayAddress f.addr ≠ displayAddress g.addr)
    {f : Frame} (hf : f ∈ frames) (d : DisplaySpace) : (d.writeFrames frames).read (displayAddress f.addr) = f.value := by
  induction frames generalizing d with
  | nil => cases hf
  | cons g fs ih =>
    obtain ⟨hg, hfs⟩ := List.pairwise_cons.1 hdistinct
    rw [writeFrames_cons]
    obtain rfl | hmem := List.mem_cons.1 hf
    · rw [read_writeFrames_of_not_named (fun h hh => (hg h hh).symm), read_write, if_pos rfl]
    · exact ih hfs hmem _

end DisplaySpace

/-! TRANSMIT (R171, R174). -/

/-- Settles O34: one transaction of the blocking procedure, both answers `done`. -/
theorem transmitCommits : Obligations.TransmitCommits := by
  intro s a v late₁ late₂ rest hs hlate₁ hlate₂ hi
  refine ⟨?_, ?_, fun b hb => ?_⟩
  · rw [← displayAddress_eq]
    exact exec_of_refinesBlocking (f := ⟨a, v⟩) (later := []) hs rfl rfl
      (fun idx => refinesBlocking_last _ idx hlate₁ hlate₂) rfl hi
  · rw [DisplaySpace.read_write, if_pos rfl]
  · rw [DisplaySpace.read_write, if_neg hb]

/-- Settles O35: the blocking procedure stopped by its first or by its second answer. -/
theorem transmitTimesOut : Obligations.TransmitTimesOut := by
  intro s a v late rest hs hlate failed
  refine ⟨fun hi => ?_, fun hi => ?_⟩
  · exact exec_of_refinesBlocking (f := ⟨a, v⟩) (later := []) hs rfl rfl
      (fun idx => refinesBlocking_addressNever _ _ idx (Nat.zero_lt_of_lt hlate)) rfl hi
  · exact exec_of_refinesBlocking (f := ⟨a, v⟩) (later := []) hs rfl rfl
      (fun idx => refinesBlocking_valueNever _ _ idx hlate) rfl hi

/-! ERRDISP and SETUP: the transactions of a table (R180, R184). -/

/-- A display operation over a table of transactions, the registers written in the table's order. -/
theorem exec_table_allDone {s : State} {i : Instr} {frames : List Frame} {lates : List Nat} {rest : List Input}
    (hs : s.drv.stage = .free) (hw : i.wellFormed = true) (hf : displayFrames s.cfg i = some frames) (hne : frames ≠ [])
    (hlen : lates.length = 2 * frames.length) (hlates : ∀ n ∈ lates, n < s.cfg.tTimeout)
    (hi : s.inputs = operationInputs s.cfg (lates.map .done) ++ rest) :
    let disp := frames.foldl (fun m f => m.write (f.addr.toNat % 16) f.value) s.disp
    exec i s = .next (s.returned (frames.flatMap transactionTrace, disp, some okDone) okDone rest) ∧
      ∀ a : Nat, (∀ f ∈ frames, f.addr.toNat % 16 ≠ a) → disp.read a = s.disp.read a := by
  obtain ⟨f, later, rfl⟩ := List.exists_cons_of_ne_nil hne
  simp only [← displayAddress_eq]
  exact ⟨exec_allDone hs hw hf hlen hlates hi, fun a ha => DisplaySpace.read_writeFrames_of_not_named ha s.disp⟩

/-- Settles O37: the four transactions of `ERR_SEQ`. -/
theorem errdispCommitsTable : Obligations.ErrdispCommitsTable := by
  intro s lates rest hs hlen hlates hi
  have hframes : (errorFrames s.cfg).length = 4 := errorFrames_length s.cfg
  exact exec_table_allDone (i := .errdisp) (frames := errorFrames s.cfg) hs rfl rfl
    (List.ne_nil_of_length_pos (by omega)) (by omega) hlates hi

/-- Settles O38: under a legal configuration the table has at least `SETUP_LEN` transactions. -/
theorem setupCommitsTable : Obligations.SetupCommitsTable := by
  intro s lates rest hc hs hlen hlates hi
  obtain ⟨-, -, -, -, -, hsetup⟩ := (cfgLegal_iff_table s.cfg).1 hc
  have hframes : (setupFrames s.cfg).length = s.cfg.setupLen.toNat := by
    rw [setupFrames_length]; omega
  exact exec_table_allDone (i := .setup) (frames := setupFrames s.cfg) hs rfl rfl
    (displayFrames_ne_nil (i := .setup) hc rfl) (by omega) hlates hi

/-! DIGITS (R70, R71, R176 to R178). -/

/-- The value byte of a digit as a number: the point weighs 0x80 (R70, R178). -/
theorem digitByte_eq {n : Nat} (hn : n < 10) (point : Bool) :
    digitByte n point = BitVec.ofNat 8 (n + if point then 0x80 else 0) := by
  have hall : ∀ (n : Fin 10) (point : Bool), digitByte n point = BitVec.ofNat 8 (n + if point then 0x80 else 0) := by decide
  exact hall ⟨n, hn⟩ point

/-- What is shown of a value byte: its low four bits are the digit, its bit 7 the point (R43). -/
theorem digitByte_shown {n : Nat} (hn : n < 10) (point : Bool) :
    ((digitByte n point).extractLsb' 0 4).toNat = n ∧ (digitByte n point).getLsbD 7 = point := by
  have hall : ∀ (n : Fin 10) (point : Bool),
      ((digitByte n point).extractLsb' 0 4).toNat = n ∧ (digitByte n point).getLsbD 7 = point := by decide
  exact hall ⟨n, hn⟩ point

section
variable (value : BitVec 32) (dp : BitVec 4)

theorem digitFrame_value (j : Nat) :
    (digitFrame value dp j).value =
      BitVec.ofNat 8 (value.toNat / 10 ^ j % 10 + if j + 1 = dp.toNat then 0x80 else 0) := by
  have hbyte := digitByte_eq (decimalDigit_lt value j) (j + 1 == dp.toNat)
  simpa [digitFrame, decimalDigit] using hbyte

/-- Transaction `j + 1` writes the display register `j + 1` (R71). -/
theorem displayAddress_digitFrame {j : Nat} (hj : j < 8) : displayAddress (digitFrame value dp j).addr = j + 1 := by
  simp only [displayAddress_eq, digitFrame, BitVec.toNat_ofNat]
  omega

theorem mem_digitFrames {f : Frame} : f ∈ digitFrames value dp ↔ ∃ j < 8, digitFrame value dp j = f := by
  simp [digitFrames]

/-- The eight transactions write eight different registers. -/
theorem digitFrames_distinct :
    (digitFrames value dp).Pairwise fun f g => displayAddress f.addr ≠ displayAddress g.addr := by
  rw [digitFrames, List.pairwise_map]
  refine List.pairwise_lt_range.imp_of_mem fun {j k} hj hk hlt => ?_
  rw [displayAddress_digitFrame value dp (List.mem_range.1 hj), displayAddress_digitFrame value dp (List.mem_range.1 hk)]
  omega

/-- The register of a digit after the eight transactions. -/
theorem read_writeFrames_digitFrames (d : DisplaySpace) {j : Nat} (hj : j < 8) :
    (d.writeFrames (digitFrames value dp)).read (j + 1) = (digitFrame value dp j).value := by
  have hmem := (mem_digitFrames value dp).2 ⟨j, hj, rfl⟩
  have hread := DisplaySpace.read_writeFrames_of_mem (digitFrames_distinct value dp) hmem d
  rwa [displayAddress_digitFrame value dp hj] at hread

/-- The registers 0 and 9 to 15 belong to no digit. -/
theorem read_writeFrames_digitFrames_other (d : DisplaySpace) {i : Nat} (hi : i = 0 ∨ 9 ≤ i) :
    (d.writeFrames (digitFrames value dp)).read i = d.read i := by
  refine DisplaySpace.read_writeFrames_of_not_named (fun f hf => ?_) d
  obtain ⟨j, hj, rfl⟩ := (mem_digitFrames value dp).1 hf
  rw [displayAddress_digitFrame value dp hj]
  omega

end

/-- Settles O36: digit `j + 1` is transaction `j + 1`, and its register is no other transaction's. -/
theorem digitsCommitsEightDigits : Obligations.DigitsCommitsEightDigits := by
  intro s value dp lates rest hs hdp hlen hlates hi digit
  have hdigit (j : Nat) : (digitFrame value dp j).value = digit (j + 1) := digitFrame_value value dp j
  have htrace : (digitFrames value dp).flatMap transactionTrace =
      (List.range' 1 8).flatMap fun i => [.stb0, .byte (BitVec.ofNat 8 i), .byte (digit i), .stb1] := by
    have hrange : List.range' 1 8 = (List.range 8).map (· + 1) := rfl
    simp only [hrange, digitFrames, List.flatMap_map, transactionTrace, hdigit]
    rfl
  have hexec := exec_allDone (i := .digits value dp) (f := digitFrame value dp 0) hs (decide_eq_true hdp) rfl hlen hlates hi
  refine ⟨s.disp.writeFrames (digitFrames value dp), ?_, fun i hlo hhi => ?_, fun i hi => ?_⟩
  · rw [← htrace]
    exact hexec
  · obtain ⟨j, rfl⟩ := Nat.exists_eq_add_of_le' hlo
    have hread := read_writeFrames_digitFrames value dp s.disp (Nat.lt_of_succ_le hhi)
    obtain ⟨hshown, hpoint⟩ := digitByte_shown (decimalDigit_lt value j) (j + 1 == dp.toNat)
    refine ⟨hread.trans (hdigit j), ?_, ?_⟩
    · rw [DisplaySpace.digitShown, hread]
      exact hshown
    · rw [DisplaySpace.pointShown, hread, digitFrame, hpoint, beq_iff_eq]
  · exact read_writeFrames_digitFrames_other value dp s.disp hi

end Sys2Proof.Machine
end

section
/-! The driver move by move (R171 to R175): the first two moves of a display operation, and what each move does to one in
progress. -/

namespace Sys2Proof.Machine

/-! The first moves (R171, R175). -/

/-- With no tick presented next the operation stays where it stands (log entry 6). -/
theorem driveDisplay_paused {ins : List Input} (h : ∀ (d : Bool) (rest : List Input), ins ≠ .tick d :: rest) (s : State) :
    driveDisplay ins s = { s with inputs := ins } := by
  cases ins with
  | nil => rfl
  | cons x rest =>
    cases x with
    | cmd w => rfl
    | tick d => exact absurd rfl (h d rest)
    | rst => rfl

/-- Settles O41: the prepared transaction after no move, after STB0, and after the address byte. -/
theorem displayOperationStarts : Obligations.DisplayOperationStarts := by
  intro s i f later hs hw hf number
  have hexec := exec_display hs hw hf
  refine ⟨fun hi => ?_, fun d rest hi hrest => ?_, fun d d' rest hi hrest => ?_⟩
  · rw [hexec, driveDisplay_paused hi]
    rfl
  · rw [hexec, hi, driveDisplay_busy (by simp [prepareTransaction_eq]), driveDisplay_paused hrest]
    rfl
  · rw [hexec, hi, driveDisplay_busy (by simp [prepareTransaction_eq]),
      driveDisplay_busy (by simp [driverTick, prepareTransaction_eq, lowerStrobe_eq]), driveDisplay_paused hrest]
    simp [driverTick, prepareTransaction_eq, lowerStrobe_eq, sendAddressByte_eq, number]

/-! The move at each stage. -/

section
variable {s : State} (d : Bool)

theorem driverTick_of_free (h : s.drv.stage = .free) : driverTick d s = s := by simp [driverTick, h]

theorem driverTick_of_opening (h : s.drv.stage = .opening) : driverTick d s = lowerStrobe s := by simp [driverTick, h]

theorem driverTick_of_addressing (h : s.drv.stage = .addressing) : driverTick d s = sendAddressByte s := by
  simp [driverTick, h]

theorem driverTick_of_sending (h : s.drv.stage = .sending) : driverTick d s = transactionTick d s := by
  simp [driverTick, h]

theorem driverTick_of_returning {r : Result} (h : s.drv.stage = .returning r) : driverTick d s = finishDisplay r s := by
  simp [driverTick, h]

end

/-! Within a transaction: the wait that ends with `never`, the end of the transaction, and every other move. -/

/-- The move is the last poll of a wait, and does not see the flag (R172, R174). -/
def pollTimesOut (d : Bool) (s : State) : Prop :=
  (s.drv.txPhase = .b1Wait ∨ s.drv.txPhase = .b2Wait) ∧ d = false ∧ s.cfg.tTimeout ≤ s.drv.waited + 1

/-- The move ends the delay after the value byte, or there is none and the flag is seen (R171, R173; log entry 22). -/
def transactionEnds (d : Bool) (s : State) : Prop :=
  (s.drv.txPhase = .b2Wait ∧ d = true ∧ s.cfg.tByteGap = 0) ∨
  (s.drv.txPhase = .b2Gap ∧ s.cfg.tByteGap ≤ s.drv.waited + 1)

/-- The phase after a move that neither fails nor ends the transaction (R20, R171). -/
def nextPhase (d : Bool) (s : State) : TxPhase :=
  match s.drv.txPhase with
  | .idle => .idle
  | .b1Wait => if d = true then if s.cfg.tByteGap = 0 then .b2Wait else .b1Gap else .b1Wait
  | .b1Gap => if s.cfg.tByteGap ≤ s.drv.waited + 1 then .b2Wait else .b1Gap
  | .b2Wait => if d = true then .b2Gap else .b2Wait
  | .b2Gap => .b2Gap

/-- Stay in the phase for one more unit of time, or enter another, where the value byte is issued on entering B2_WAIT (R171). -/
def goToPhase (p : TxPhase) (s : State) : State :=
  { s with
    drv := { s.drv with txPhase := p, waited := if p = s.drv.txPhase then s.drv.waited + 1 else 0 }
    link := s.link ++ if s.drv.txPhase ≠ .b2Wait ∧ p = .b2Wait then [.byte s.drv.frame.value] else [] }

theorem countTick_eq_goToPhase (s : State) : countTick s = goToPhase s.drv.txPhase s := by
  simp [countTick_eq, goToPhase]

theorem enterGap_eq_goToPhase {s : State} {p : TxPhase} (hne : p ≠ s.drv.txPhase) (hp : p ≠ .b2Wait) :
    s.setDriver { s.drv with txPhase := p, waited := 0 } = goToPhase p s := by
  simp [State.setDriver, goToPhase, hne, hp]

theorem sendValueByte_eq_goToPhase {s : State} (h : s.drv.txPhase ≠ .b2Wait) : sendValueByte s = goToPhase .b2Wait s := by
  simp [sendValueByte_eq, goToPhase, h, h.symm]

section
variable {s : State} {d : Bool}

theorem transactionTick_of_pollTimesOut (h : pollTimesOut d s) : transactionTick d s = failTransaction s := by
  obtain ⟨hp, rfl, hlast⟩ := h
  have hpoll : pollUnanswered s = failTransaction s := if_neg (Nat.not_lt_of_le hlast)
  rcases hp with hp | hp <;> simpa [transactionTick, hp] using hpoll

theorem transactionTick_of_transactionEnds (h : transactionEnds d s) : transactionTick d s = commitTransaction s := by
  obtain ⟨hp, rfl, hgap⟩ | ⟨hp, hgap⟩ := h
  · simp [transactionTick, hp, secondByteDone, leaveSecondGap, hgap, commitTransaction_setPhase]
  · have hleave : leaveSecondGap (countTick s) = commitTransaction (countTick s) := if_neg (Nat.not_lt_of_le hgap)
    simp only [transactionTick, hp, hleave]
    exact commitTransaction_setPhase s s.drv.txPhase (s.drv.waited + 1)

/-- Every other move goes to the next phase, or stays. -/
theorem transactionTick_of_not_last (hphase : s.drv.txPhase ≠ .idle) (hfail : ¬pollTimesOut d s)
    (hend : ¬transactionEnds d s) : transactionTick d s = goToPhase (nextPhase d s) s := by
  obtain ⟨hp, -⟩ | ⟨hp, hd, -, ht⟩ | ⟨hp, hd, hlast, -⟩ | ⟨hp, hd, hgap, ht⟩ | ⟨hp, hd, hgap, ht⟩ |
    ⟨hp, hgap, ht⟩ | ⟨hp, ht⟩ | ⟨hp, -⟩ := transactionTick_cases d s
  · exact absurd hp hphase
  · have hnext : nextPhase d s = s.drv.txPhase := by rcases hp with hp | hp <;> simp [nextPhase, hp, hd]
    rw [ht, hnext, countTick_eq_goToPhase]
  · exact absurd ⟨hp, hd, hlast⟩ hfail
  · have hnext : nextPhase d s = .b1Gap := by simp [nextPhase, hp, hd, hgap.ne']
    rw [ht, hnext, enterGap_eq_goToPhase (by simp [hp]) (by simp)]
  · have hnext : nextPhase d s = .b2Gap := by simp [nextPhase, hp, hd]
    rw [ht, hnext, enterGap_eq_goToPhase (by simp [hp]) (by simp)]
  · have hnext : nextPhase d s = s.drv.txPhase := by
      rcases hp with hp | hp <;> simp [nextPhase, hp, Nat.not_le_of_lt hgap]
    rw [ht, hnext, countTick_eq_goToPhase]
  · have hnext : nextPhase d s = .b2Wait := by
      rcases hp with ⟨hp, hd, hgap⟩ | ⟨hp, hgap⟩
      · simp [nextPhase, hp, hd, hgap]
      · simp [nextPhase, hp, hgap]
    have hne : s.drv.txPhase ≠ .b2Wait := by rcases hp with ⟨hp, -⟩ | ⟨hp, -⟩ <;> simp [hp]
    rw [ht, hnext, sendValueByte_eq_goToPhase hne]
  · exact absurd hp hend

end

/-- The phases only go forward, and none leads back to IDLE (R20). -/
theorem nextPhase_forward (d : Bool) {s : State} (h : s.drv.txPhase ≠ .idle) :
    nextPhase d s ≠ .idle ∧ (phaseCode s.drv.txPhase).toNat ≤ (phaseCode (nextPhase d s)).toNat := by
  unfold nextPhase
  cases hp : s.drv.txPhase with
  | idle => exact absurd hp h
  | b1Wait => cases d <;> by_cases hgap : s.cfg.tByteGap = 0 <;> simp [hgap, phaseCode]
  | b1Gap => by_cases hgap : s.cfg.tByteGap ≤ s.drv.waited + 1 <;> simp [hgap, phaseCode]
  | b2Wait => cases d <;> simp [phaseCode]
  | b2Gap => simp [phaseCode]

/-- Settles O42: the move at each stage; within a transaction it fails, ends the transaction, or goes to the next phase. -/
theorem sequencerGoesForward : Obligations.SequencerGoesForward := by
  intro s d _ t timedOut committed written
  have hwritten : written = s.disp.write (displayAddress s.drv.frame.addr) s.drv.frame.value := by
    rw [displayAddress_eq]
  obtain ⟨hcfg, hmeas, hinputs, hresults⟩ := driverTick_outside d s
  refine ⟨⟨hmeas, hcfg, hinputs, hresults⟩, fun hs => ?opening, fun hs => ?addressing, fun r hs => ?returning,
    fun hs hphase => ?sending⟩
  case opening => exact driverTick_of_opening d hs
  case addressing => exact driverTick_of_addressing d hs
  case returning => exact driverTick_of_returning d hs
  case sending =>
    have hsending : t = transactionTick d s := driverTick_of_sending d hs
    refine ⟨fun hfail hend => ?forward, fun hfail => ?failed, fun hend hqueue => ?last, fun hend f later hqueue => ?next⟩
    case forward =>
      have ht : t = goToPhase (nextPhase d s) s := hsending.trans (transactionTick_of_not_last hphase hfail hend)
      obtain ⟨hne, hforward⟩ := nextPhase_forward d hphase
      rw [ht]
      refine ⟨hs, hne, rfl, hforward, rfl, rfl, rfl, rfl, rfl, fun hp hd => ?_, fun hp hd => ?_, fun hp => ?_, fun hp => ?_,
        rfl, rfl⟩
      · simp [goToPhase, nextPhase, hp, hd]
      · simp [goToPhase, nextPhase, hp, hd]
      · simp [goToPhase, nextPhase, hp]
      · simp [goToPhase, nextPhase, hp]
    case failed =>
      rw [hsending, transactionTick_of_pollTimesOut hfail, failTransaction_eq]
      exact ⟨rfl, rfl, rfl, rfl⟩
    case last =>
      rw [hsending, transactionTick_of_transactionEnds hend, commitTransaction_last hqueue]
      exact ⟨rfl, rfl, rfl, hwritten.symm⟩
    case next =>
      rw [hsending, transactionTick_of_transactionEnds hend, commitTransaction_next hqueue]
      exact ⟨rfl, rfl, rfl, hwritten.symm⟩

end Sys2Proof.Machine
end

section
/-! A display operation returns within a bound of moves (R172, R173): a count of the moves still to come that every move lowers,
from whatever the completion flag shows. -/

namespace Sys2Proof.Machine

/-! The count of the moves still to come. -/

/-- At most this many moves remain of the transaction in progress: the polls and the units of delay from here on. -/
def phaseMoves (c : Cfg) (d : Driver) : Nat :=
  match d.txPhase with
  | .idle => 0
  | .b1Wait => (c.tTimeout - 1 - d.waited) + 1 + c.tByteGap + c.tTimeout + c.tByteGap
  | .b1Gap => (c.tByteGap - 1 - d.waited) + 1 + c.tTimeout + c.tByteGap
  | .b2Wait => (c.tTimeout - 1 - d.waited) + 1 + c.tByteGap
  | .b2Gap => (c.tByteGap - 1 - d.waited) + 1

/-- At most this many moves of a whole transaction: STB0, the address byte, two waits and two delays. -/
def transactionMoves (c : Cfg) : Nat := 2 * (c.tTimeout + c.tByteGap + 1)

/-- At most this many moves remain until a display operation has returned. -/
def movesLeft (c : Cfg) (d : Driver) : Nat :=
  match d.stage with
  | .free => 0
  | .opening => (1 + d.queue.length) * transactionMoves c + 1
  | .addressing => (1 + d.queue.length) * transactionMoves c
  | .sending => d.queue.length * transactionMoves c + phaseMoves c d + 1
  | .returning _ => 1

/-- What a consistent driver gives the count: within a transaction the phase is not IDLE, and what is returned is Ok or
Error(Timeout). -/
structure Driver.WillReturn (d : Driver) : Prop where
  phase : d.stage = .sending → d.txPhase ≠ .idle
  result : ∀ r, d.stage = .returning r → r = okDone ∨ r = .timeout

theorem driverConsistent_willReturn {c : Cfg} {d : Driver} (h : driverConsistent c d) : d.WillReturn := by
  obtain rfl | rfl | rfl | ⟨hs, -⟩ | ⟨hs, -⟩ | ⟨hs, -, hphase, -⟩ := h
  · exact ⟨by simp, by simp⟩
  · exact ⟨by simp, by simp⟩
  · exact ⟨by simp, by simp⟩
  · exact ⟨by simp [hs], by simp [hs]⟩
  · exact ⟨by simp [hs], by simp [hs]⟩
  · exact ⟨fun _ => hphase, by simp [hs]⟩

theorem phaseMoves_le {c : Cfg} (hc : 0 < c.tTimeout) (d : Driver) : phaseMoves c d ≤ transactionMoves c := by
  unfold phaseMoves transactionMoves
  cases d.txPhase <;> dsimp only <;> omega

/-- From any stage the count is within the bound. -/
theorem movesLeft_le {c : Cfg} (hc : 0 < c.tTimeout) (d : Driver) :
    movesLeft c d ≤ (1 + d.queue.length) * transactionMoves c + 1 := by
  have hphase := phaseMoves_le hc d
  unfold movesLeft
  rw [Nat.add_mul, Nat.one_mul]
  cases d.stage <;> dsimp only <;> omega

theorem movesLeft_pos {c : Cfg} {d : Driver} (h : d.stage ≠ .free) : 0 < movesLeft c d := by
  have hpos : 0 < (1 + d.queue.length) * transactionMoves c := Nat.mul_pos (by omega) (by unfold transactionMoves; omega)
  unfold movesLeft
  cases hs : d.stage with
  | free => exact absurd hs h
  | opening => exact Nat.succ_pos _
  | addressing => exact hpos
  | sending => exact Nat.succ_pos _
  | returning r => exact Nat.succ_pos _

/-! What one move does to it. -/

/-- The operation goes on, with fewer moves to come and no response yet. -/
structure GoesOn (s t : State) : Prop where
  busy : t.drv.stage ≠ .free
  willReturn : t.drv.WillReturn
  responses : t.responses = s.responses
  fewer : movesLeft t.cfg t.drv < movesLeft s.cfg s.drv

/-- The driver is idle and one response was given, Ok or Error(Timeout). -/
def ReturnedOnce (s t : State) : Prop :=
  t.drv = Driver.idle ∧
    (t.responses = s.responses ++ [responseWord okDone] ∨ t.responses = s.responses ++ [responseWord .timeout])

section
variable {s : State}

theorem lowerStrobe_goesOn (hs : s.drv.stage = .opening) : GoesOn s (lowerStrobe s) := by
  rw [lowerStrobe_eq]
  refine ⟨by simp, ⟨by simp, by simp⟩, rfl, ?_⟩
  simp [movesLeft, hs]

theorem sendAddressByte_goesOn (hc : 0 < s.cfg.tTimeout) (hs : s.drv.stage = .addressing) :
    GoesOn s (sendAddressByte s) := by
  rw [sendAddressByte_eq]
  refine ⟨by simp, ⟨by simp, by simp⟩, rfl, ?_⟩
  simp only [movesLeft, hs, phaseMoves, transactionMoves, Nat.add_mul]
  omega

/-! Within a transaction. -/

theorem phaseMoves_pos {c : Cfg} {d : Driver} (h : d.txPhase ≠ .idle) : 0 < phaseMoves c d := by
  unfold phaseMoves
  split
  · contradiction
  all_goals omega

/-- A move that neither fails nor ends the transaction spends a poll or a unit of delay, or enters a later phase. -/
theorem phaseMoves_nextPhase {d : Bool} (hc : 0 < s.cfg.tTimeout) (hphase : s.drv.txPhase ≠ .idle)
    (hfail : ¬pollTimesOut d s) (hend : ¬transactionEnds d s) :
    phaseMoves s.cfg (goToPhase (nextPhase d s) s).drv < phaseMoves s.cfg s.drv := by
  have hpoll (hp : s.drv.txPhase = .b1Wait ∨ s.drv.txPhase = .b2Wait) (hd : d = false) : s.drv.waited + 1 < s.cfg.tTimeout :=
    Nat.lt_of_not_le fun hlast => hfail ⟨hp, hd, hlast⟩
  unfold phaseMoves goToPhase nextPhase
  cases hp : s.drv.txPhase with
  | idle => exact absurd hp hphase
  | b1Wait =>
    cases d with
    | false =>
      have hroom := hpoll (.inl hp) rfl
      simp only [Bool.false_eq_true, if_false, if_true]
      omega
    | true => by_cases hgap : s.cfg.tByteGap = 0 <;> simp only [hgap, reduceCtorEq, if_false, if_true] <;> omega
  | b1Gap =>
    by_cases hgap : s.cfg.tByteGap ≤ s.drv.waited + 1 <;> simp only [hgap, reduceCtorEq, if_false, if_true] <;> omega
  | b2Wait =>
    cases d with
    | false =>
      have hroom := hpoll (.inr hp) rfl
      simp only [Bool.false_eq_true, if_false, if_true]
      omega
    | true =>
      have hgap : s.cfg.tByteGap ≠ 0 := fun hgap => hend (.inl ⟨hp, rfl, hgap⟩)
      simp only [reduceCtorEq, if_false, if_true]
      omega
  | b2Gap =>
    have hgap : s.drv.waited + 1 < s.cfg.tByteGap := Nat.lt_of_not_le fun hgap => hend (.inr ⟨hp, hgap⟩)
    simp only [if_true]
    omega

section
variable (hs : s.drv.stage = .sending) (hphase : s.drv.txPhase ≠ .idle)
include hs hphase

theorem failTransaction_goesOn : GoesOn s (failTransaction s) := by
  have hpos := phaseMoves_pos (c := s.cfg) hphase
  rw [failTransaction_eq]
  refine ⟨by simp, ⟨by simp, by simp⟩, rfl, ?_⟩
  simp only [movesLeft, hs]
  omega

theorem commitTransaction_goesOn : GoesOn s (commitTransaction s) := by
  have hpos := phaseMoves_pos (c := s.cfg) hphase
  cases hq : s.drv.queue with
  | nil =>
    rw [commitTransaction_last hq]
    refine ⟨by simp, ⟨by simp, by simp⟩, rfl, ?_⟩
    simp only [movesLeft, hs]
    omega
  | cons f later =>
    rw [commitTransaction_next hq]
    refine ⟨by simp, ⟨by simp, by simp⟩, rfl, ?_⟩
    simp only [movesLeft, hs, hq, List.length_cons, Nat.add_comm 1]
    omega

theorem transactionTick_goesOn (hc : 0 < s.cfg.tTimeout) (d : Bool) : GoesOn s (transactionTick d s) := by
  by_cases hfail : pollTimesOut d s
  · rw [transactionTick_of_pollTimesOut hfail]
    exact failTransaction_goesOn hs hphase
  by_cases hend : transactionEnds d s
  · rw [transactionTick_of_transactionEnds hend]
    exact commitTransaction_goesOn hs hphase
  obtain ⟨hnext, -⟩ := nextPhase_forward d hphase
  have hfewer := phaseMoves_nextPhase hc hphase hfail hend
  rw [transactionTick_of_not_last hphase hfail hend]
  have hs' : (goToPhase (nextPhase d s) s).drv.stage = .sending := hs
  refine ⟨by simp [hs'], ⟨fun _ => hnext, by simp [hs']⟩, rfl, ?_⟩
  rw [movesLeft, movesLeft, hs, hs']
  exact Nat.succ_lt_succ (Nat.add_lt_add_left hfewer _)

end

/-- Every move of an operation in progress goes on with it, or returns from it. -/
theorem driverTick_goesOn_or_returns (hc : 0 < s.cfg.tTimeout) (hbusy : s.drv.stage ≠ .free) (h : s.drv.WillReturn)
    (d : Bool) : GoesOn s (driverTick d s) ∨ ReturnedOnce s (driverTick d s) := by
  cases hs : s.drv.stage with
  | free => exact absurd hs hbusy
  | opening =>
    rw [driverTick_of_opening d hs]
    exact .inl (lowerStrobe_goesOn hs)
  | addressing =>
    rw [driverTick_of_addressing d hs]
    exact .inl (sendAddressByte_goesOn hc hs)
  | sending =>
    rw [driverTick_of_sending d hs]
    exact .inl (transactionTick_goesOn hs (h.phase hs) hc d)
  | returning r =>
    rw [driverTick_of_returning d hs]
    obtain rfl | rfl := h.result r hs
    · exact .inr ⟨rfl, .inl rfl⟩
    · exact .inr ⟨rfl, .inr rfl⟩

end

/-! A run over moves. -/

/-- The state with just these moves of the driver still to be presented. -/
def State.withTicks (s : State) (ds : List Bool) : State := s.withInputs (ds.map Input.tick)

section
variable {s : State} (hc : cfgLegal s.cfg = true)
include hc

theorem run_withTicks_cons (d : Bool) (ds : List Bool) :
    core.run (d :: ds).length (s.withTicks (d :: ds)) = core.run ds.length ((driverTick d s).withTicks ds) :=
  run_succ_of_step (step_withInputs_tick hc d (ds.map Input.tick)) ds.length

/-- Moves presented to an idle driver change nothing (log entry 14). -/
theorem run_withTicks_of_free (hfree : s.drv.stage = .free) (ds : List Bool) :
    core.run ds.length (s.withTicks ds) = .next (s.withInputs []) := by
  induction ds with
  | nil => rfl
  | cons d ds ih => rw [run_withTicks_cons hc, driverTick_of_free d hfree, ih]

end

/-- With as many moves as the count says the operation has returned, once: by induction on the moves. -/
theorem run_withTicks_returns (ds : List Bool) : ∀ {s : State}, cfgLegal s.cfg = true → s.drv.stage ≠ .free →
    s.drv.WillReturn → movesLeft s.cfg s.drv ≤ ds.length →
    ∃ t, core.run ds.length (s.withTicks ds) = .next t ∧ ReturnedOnce s t := by
  induction ds with
  | nil =>
    intro s _ hbusy _ hmoves
    exact absurd hmoves (Nat.not_le_of_lt (movesLeft_pos hbusy))
  | cons d ds ih =>
    intro s hc hbusy hwill hmoves
    obtain ⟨-, -, -, -, htimeout, -⟩ := (cfgLegal_iff_table s.cfg).1 hc
    have hc' : cfgLegal (driverTick d s).cfg = true := by rwa [driverTick_cfg]
    rw [run_withTicks_cons hc]
    obtain ⟨hbusy', hwill', hresponses, hfewer⟩ | hreturned := driverTick_goesOn_or_returns htimeout hbusy hwill d
    · obtain ⟨t, ht, hidle, hanswer⟩ := ih hc' hbusy' hwill' (Nat.le_of_lt_succ (hfewer.trans_le hmoves))
      exact ⟨t, ht, hidle, hresponses ▸ hanswer⟩
    · exact ⟨_, run_withTicks_of_free hc' (by rw [hreturned.1]; rfl) ds, hreturned⟩

/-- Settles O44: the bound is what the count allows at most. -/
theorem driverReturnsWithinBound : Obligations.DriverReturnsWithinBound := by
  intro s ds hc hcons hbusy hlen hi
  obtain ⟨-, -, -, -, htimeout, -⟩ := (cfgLegal_iff_table s.cfg).1 hc
  have hmoves : movesLeft s.cfg s.drv ≤ ds.length := hlen ▸ movesLeft_le htimeout s.drv
  have hticks : s.withTicks ds = s := by rw [State.withTicks, ← hi]; rfl
  have hreturns := run_withTicks_returns ds hc hbusy (driverConsistent_willReturn hcons) hmoves
  rwa [hticks] at hreturns

end Sys2Proof.Machine
end

section
/-! Readiness, errors and the order of handler operations (R210 to R219): which operations the command port accepts, what an error
result leaves as it was, and that a sample and a timer event may be taken in either order. -/

namespace Sys2Proof.Machine

/-! Readiness of the command port (R60, R214, R217). -/

theorem cmdReady_iff (i : Instr) (s : State) : cmdReady i s = true ↔ contextOf i ≠ .mainLoop ∨ s.drv.stage = .free := by
  simp [cmdReady]

/-- A well-formed operation of the main loop waits for the command port before it does anything else (R217). -/
theorem exec_mainLoop {i : Instr} (hi : contextOf i = .mainLoop) (hw : i.wellFormed = true) (s : State) :
    ∃ s', exec i s = whenReady s s' := by
  cases i with
  | sample x => cases hi
  | overflow => cases hi
  | capture c => cases hi
  | mode m => exact ⟨_, rfl⟩
  | render => exact ⟨_, rfl⟩
  | transmit a v => exact ⟨_, rfl⟩
  | digits value dp => exact ⟨_, if_pos hw⟩
  | errdisp => exact ⟨_, rfl⟩
  | setup => exact ⟨_, rfl⟩

/-- Settles O45: the main loop's operations by their readiness test, the handlers' because they have none. -/
theorem mainLoopBlockedHandlersAccepted : Obligations.MainLoopBlockedHandlersAccepted := by
  constructor
  · intro s i hbusy hw hi
    obtain ⟨s', hexec⟩ := exec_mainLoop hi hw s
    have hready : ¬cmdReady i s = true := by simp [cmdReady_iff, hi, hbusy]
    exact ⟨Bool.eq_false_of_not_eq_true hready, hexec.trans (whenReady_of_busy hbusy s')⟩
  · intro s i hi
    exact ⟨(cmdReady_iff i s).2 (.inl hi), handle i s, exec_handler hi s⟩

/-- Settles O49: there is no fault to raise, and the only ground on which an operation is refused is a busy driver. -/
theorem everyOperationAvailable : Obligations.EveryOperationAvailable := by
  refine ⟨fun s f => f.casesOn, fun s i hfree => ?_⟩
  rcases hexec : exec i s with t | f | r
  · exact ⟨t, rfl⟩
  · cases f
  · obtain ⟨-, hbusy, -⟩ := exec_refused hexec
    exact absurd hfree hbusy

/-! What an error result leaves as it was (R218). -/

theorem opField_responseWord (r : Result) : opField (responseWord r) = resultCode r := by
  cases r with
  | ok value dp => exact opField_commandWord _ dp value
  | outOfRange => exact opField_commandWord _ 0 0
  | timeout => exact opField_commandWord _ 0 0
  | notYetValid => exact opField_commandWord _ 0 0
  | illegal => exact opField_commandWord _ 0 0

/-- The word of an error is the word of no Ok: its code is not 0 (R65). -/
theorem responseWord_error_ne_ok {e : Result} (he : ∀ value dp, e ≠ .ok value dp) (value : BitVec 32) (dp : BitVec 4) :
    responseWord e ≠ responseWord (.ok value dp) := by
  intro h
  have hcode : resultCode e = 0 := by rw [← opField_responseWord, h, opField_responseWord]; rfl
  cases e with
  | ok value' dp' => exact he value' dp' rfl
  | outOfRange => exact absurd hcode (by decide)
  | timeout => exact absurd hcode (by decide)
  | notYetValid => exact absurd hcode (by decide)
  | illegal => exact absurd hcode (by decide)

/-- Of the main loop's operations only MODE writes the measurement state (R23, R155). -/
theorem measurementAfter_of_mainLoop {i : Instr} (hi : contextOf i = .mainLoop) (hmode : ∀ e, i ≠ .mode e) (c : Cfg)
    (m : Measurement) : measurementAfter c m i = m := by
  cases i with
  | sample x => cases hi
  | overflow => cases hi
  | capture n => cases hi
  | mode e => exact absurd rfl (hmode e)
  | render => rfl
  | transmit a v => rfl
  | digits value dp => rfl
  | errdisp => rfl
  | setup => rfl

/-- An operation that responds with an error is neither a handler operation, which responds nothing, nor MODE, which responds Ok;
so it leaves the measurement state as it was. -/
theorem exec_error_meas {s t : State} {i : Instr} {e : Result} (h : exec i s = .next t)
    (he : ∀ value dp, e ≠ .ok value dp) (hresp : t.responses = s.responses ++ [responseWord e]) : t.meas = s.meas := by
  rw [exec_meas h]
  by_cases hi : contextOf i = .mainLoop
  · refine measurementAfter_of_mainLoop hi ?_ _ _
    rintro m rfl
    obtain ⟨-, rfl⟩ := (whenReady_next_iff _ _ _).1 h
    have hword : responseWord okDone = responseWord e := by simpa using hresp
    exact responseWord_error_ne_ok he 0 0 hword.symm
  · rw [exec_handler hi] at h
    cases h
    simp [handle] at hresp

/-- A move that responds leaves the driver at its idle values (R49, R170). -/
theorem driverTick_unanswered_or_idle (d : Bool) (s : State) :
    (driverTick d s).responses = s.responses ∨ (driverTick d s).drv = Driver.idle := by
  obtain ⟨-, h⟩ | ⟨-, h⟩ | ⟨-, h⟩ | ⟨-, h⟩ | ⟨r, -, h⟩ := driverTick_cases d s <;> rw [h]
  · exact .inl rfl
  · exact .inl rfl
  · exact .inl rfl
  · exact .inl (transactionTick_responses d s)
  · exact .inr rfl

theorem driveDisplay_unanswered_or_idle (ins : List Input) (s : State) :
    (driveDisplay ins s).responses = s.responses ∨ (driveDisplay ins s).drv = Driver.idle := by
  refine driveDisplay_induction (P := fun t => t.responses = s.responses ∨ t.drv = Driver.idle) (fun _ _ h => h)
    (fun d t h => ?_) ins s (.inl rfl)
  obtain hresp | hidle := h
  · rw [← hresp]; exact driverTick_unanswered_or_idle d t
  · rw [driverTick_free (by rw [hidle]; rfl)]; exact .inr hidle

/-- An operation accepted by an idle driver that has responded has left the driver idle again (R49, R170). -/
theorem exec_unanswered_or_idle {s t : State} {i : Instr} (hidle : s.drv = Driver.idle) (h : exec i s = .next t) :
    t.responses = s.responses ∨ t.drv = Driver.idle := by
  obtain ⟨m, rfl⟩ | ⟨m, r, rfl⟩ | ⟨f, later, idx, -, rfl⟩ := exec_kinds h
  · exact .inl rfl
  · exact .inr hidle
  · exact driveDisplay_unanswered_or_idle s.inputs (prepareTransaction f later idx s)

/-- Settles O48: the three parts of the state, each by what an operation that responds with an error can be. -/
theorem errorsLeaveRegisters : Obligations.ErrorsLeaveRegisters := by
  intro s t i e hidle h he hresp
  have hdrv : t.drv = Driver.idle :=
    (exec_unanswered_or_idle hidle h).resolve_left fun hsilent => by simp [hresp] at hsilent
  exact ⟨exec_error_meas h he hresp, hdrv.trans hidle.symm, exec_cfg h⟩

/-! The order of two handler operations (R215). -/

/-- Two handler operations may be taken in either order when their updates of the measurement state may. -/
theorem handle_comm {i j : Instr} {s : State}
    (h : measurementAfter s.cfg (measurementAfter s.cfg s.meas i) j = measurementAfter s.cfg (measurementAfter s.cfg s.meas j) i) :
    handle j (handle i s) = handle i (handle j s) := by
  simp [handle, State.setMeas, State.handlerDone, h]

/-- A timer event writes in mode FREQUENCY only (R100). -/
theorem measurementAfter_timer_of_ne {i : Instr} (hi : contextOf i = .timerHandler) {m : Measurement}
    (hm : m.mode ≠ .frequency) (c : Cfg) : measurementAfter c m i = m := by
  cases i with
  | sample x => cases hi
  | overflow => exact overflowStep_of_ne hm
  | capture n => exact captureStep_of_ne hm c n
  | mode e => cases hi
  | render => cases hi
  | transmit a v => cases hi
  | digits value dp => cases hi
  | errdisp => cases hi
  | setup => cases hi

/-- In every mode one of the two does nothing: a sample in mode FREQUENCY (R122), a timer event in the others (R100). -/
theorem sampleStep_measurementAfter_timer {i : Instr} (hi : contextOf i = .timerHandler) (c : Cfg) (x : BitVec 12)
    (m : Measurement) : measurementAfter c (sampleStep c x m) i = sampleStep c x (measurementAfter c m i) := by
  by_cases hm : m.mode = .frequency
  · have hmode : (measurementAfter c m i).mode = .frequency := by
      obtain hkept | hentry := measurementAfter_mode c m i
      · exact hkept.trans hm
      · rw [hentry] at hi; cases hi
    rw [sampleStep_of_frequency hm, sampleStep_of_frequency hmode]
  · have hmode : (sampleStep c x m).mode ≠ .frequency := by rwa [sampleStep_mode]
    rw [measurementAfter_timer_of_ne hi hm, measurementAfter_timer_of_ne hi hmode]

/-- Settles O25: both are handler operations, and of their two updates one does nothing. -/
theorem sampleCommutesWithTimerEvents : Obligations.SampleCommutesWithTimerEvents := by
  intro s t u x i hi ht hu
  have hsample : contextOf (.sample x) ≠ .mainLoop := nofun
  have hhandler : contextOf i ≠ .mainLoop := by rw [hi]; decide
  have hcomm : handle i (handle (.sample x) s) = handle (.sample x) (handle i s) :=
    handle_comm (sampleStep_measurementAfter_timer hi s.cfg x s.meas)
  rw [exec_handler hsample] at ht
  rw [exec_handler hhandler] at hu
  cases ht
  cases hu
  exact ⟨_, exec_handler hhandler _, (exec_handler hsample _).trans (congrArg _ hcomm.symm)⟩

end Sys2Proof.Machine
end

section
/-! Waiting, and reset (R172, R173, R240, R241): a step with nothing, a move of the driver or a `rst` presented, the block right
after reset, and a display operation that a `rst` cuts between two of its link events. -/

namespace Sys2Proof.Machine

/-! A step with nothing presented, and a step that takes a `rst`. -/

theorem step_waiting {s : State} (hc : cfgLegal s.cfg = true) (hi : s.inputs = []) : step s = .next s := by
  simp [step, stepInputs, hc, hi]

theorem step_rst {s : State} {rest : List Input} (hc : cfgLegal s.cfg = true) (hi : s.inputs = .rst :: rest) :
    step s = .next (applyReset { s with inputs := rest }) := by
  simp [step, stepInputs, hc, hi, acceptInput]

theorem applyReset_link_of_low {s : State} (h : s.drv.strobe = .low) : (applyReset s).link = s.link ++ [.stb1] := if_pos h

theorem applyReset_link_of_not_low {s : State} (h : s.drv.strobe ≠ .low) : (applyReset s).link = s.link := if_neg h

theorem applyReset_disp_of_free {s : State} (h : s.drv.stage = .free) : (applyReset s).disp = s.disp := if_pos h

theorem applyReset_disp_of_busy {s : State} (h : s.drv.stage ≠ .free) : (applyReset s).disp = s.disp.lose := if_neg h

/-- Settles O6. -/
theorem stepWaitsOrTicks : Obligations.StepWaitsOrTicks := fun _ hc =>
  ⟨step_waiting hc, fun _ _ => step_tick hc⟩

/-- Settles O54: the registers at reset are those of a fresh mode DC, and the driver is idle. -/
theorem afterReset : Obligations.AfterReset := by
  intro c hc
  have hfresh : responseWord (renderResult c Measurement.atReset) = 0x0400000000 := responseWord_of_freshMode c .dc
  refine ⟨step_waiting hc rfl, exec_mode_of_idle rfl .dc, fun i hi => ⟨_, exec_handler hi _⟩, ?_⟩
  rw [← hfresh]
  exact exec_render_of_result rfl rfl

/-! The moves of an operation append to the link trace without reading it, and do not look at the inputs the state holds. -/

/-- The state with other link events before its own. -/
def State.withLinkBefore (s : State) (l : List LinkEvent) : State := { s with link := l ++ s.link }

section
variable (s : State) (l : List LinkEvent)

theorem emit_withLinkBefore (es : List LinkEvent) : (s.withLinkBefore l).emit es = (s.emit es).withLinkBefore l := by
  simp [State.emit, State.withLinkBefore]

theorem lowerStrobe_withLinkBefore : lowerStrobe (s.withLinkBefore l) = (lowerStrobe s).withLinkBefore l := by
  unfold lowerStrobe
  rw [emit_withLinkBefore]
  rfl

theorem sendAddressByte_withLinkBefore : sendAddressByte (s.withLinkBefore l) = (sendAddressByte s).withLinkBefore l := by
  unfold sendAddressByte
  rw [emit_withLinkBefore]
  rfl

theorem sendValueByte_withLinkBefore : sendValueByte (s.withLinkBefore l) = (sendValueByte s).withLinkBefore l := by
  unfold sendValueByte
  rw [emit_withLinkBefore]
  rfl

theorem failTransaction_withLinkBefore : failTransaction (s.withLinkBefore l) = (failTransaction s).withLinkBefore l := by
  unfold failTransaction
  rw [emit_withLinkBefore]
  rfl

theorem commitTransaction_withLinkBefore :
    commitTransaction (s.withLinkBefore l) = (commitTransaction s).withLinkBefore l := by
  have hqueue : (s.withLinkBefore l).drv.queue = s.drv.queue := rfl
  unfold commitTransaction
  rw [hqueue, emit_withLinkBefore]
  cases s.drv.queue with
  | nil => rfl
  | cons f later => rfl

theorem leaveFirstGap_withLinkBefore : leaveFirstGap (s.withLinkBefore l) = (leaveFirstGap s).withLinkBefore l := by
  unfold leaveFirstGap
  rw [sendValueByte_withLinkBefore, apply_ite (fun t : State => t.withLinkBefore l)]
  rfl

theorem leaveSecondGap_withLinkBefore : leaveSecondGap (s.withLinkBefore l) = (leaveSecondGap s).withLinkBefore l := by
  unfold leaveSecondGap
  rw [commitTransaction_withLinkBefore, apply_ite (fun t : State => t.withLinkBefore l)]
  rfl

theorem pollUnanswered_withLinkBefore : pollUnanswered (s.withLinkBefore l) = (pollUnanswered s).withLinkBefore l := by
  unfold pollUnanswered
  rw [failTransaction_withLinkBefore, apply_ite (fun t : State => t.withLinkBefore l)]
  rfl

theorem transactionTick_withLinkBefore (d : Bool) :
    transactionTick d (s.withLinkBefore l) = (transactionTick d s).withLinkBefore l := by
  have hphase : (s.withLinkBefore l).drv.txPhase = s.drv.txPhase := rfl
  unfold transactionTick
  rw [hphase]
  cases s.drv.txPhase with
  | idle => rfl
  | b1Wait =>
    cases d with
    | false => exact pollUnanswered_withLinkBefore s l
    | true => exact leaveFirstGap_withLinkBefore (s.setDriver { s.drv with txPhase := .b1Gap, waited := 0 }) l
  | b1Gap => exact leaveFirstGap_withLinkBefore (countTick s) l
  | b2Wait =>
    cases d with
    | false => exact pollUnanswered_withLinkBefore s l
    | true => exact leaveSecondGap_withLinkBefore (s.setDriver { s.drv with txPhase := .b2Gap, waited := 0 }) l
  | b2Gap => exact leaveSecondGap_withLinkBefore (countTick s) l

theorem driverTick_withLinkBefore (d : Bool) :
    driverTick d (s.withLinkBefore l) = (driverTick d s).withLinkBefore l := by
  have hstage : (s.withLinkBefore l).drv.stage = s.drv.stage := rfl
  unfold driverTick
  rw [hstage]
  cases s.drv.stage with
  | free => rfl
  | opening => exact lowerStrobe_withLinkBefore s l
  | addressing => exact sendAddressByte_withLinkBefore s l
  | sending => exact transactionTick_withLinkBefore s l d
  | returning r => rfl

end

/-- A change of the state that the moves of the driver do not notice is still there after all the moves an operation runs
through. -/
theorem driveDisplay_comm {φ : State → State} (hstage : ∀ s, (φ s).drv.stage = s.drv.stage)
    (htick : ∀ d s, driverTick d (φ s) = φ (driverTick d s))
    (hinputs : ∀ s ins, (φ s).withInputs ins = (φ (s.withInputs ins)).withInputs ins) (ins : List Input) :
    ∀ s, driveDisplay ins (φ s) = (φ (driveDisplay ins s)).withInputs (driveDisplay ins s).inputs := by
  induction ins with
  | nil => exact fun s => hinputs s []
  | cons x rest ih =>
    intro s
    cases x with
    | cmd w => exact hinputs s _
    | rst => exact hinputs s _
    | tick d =>
      by_cases hfree : s.drv.stage = .free
      · rw [driveDisplay_idle hfree, driveDisplay_idle ((hstage s).trans hfree)]
        exact hinputs s _
      · rw [driveDisplay_busy hfree, driveDisplay_busy (by rwa [hstage]), htick, ih]

theorem driveDisplay_withLinkBefore (l : List LinkEvent) (ins : List Input) (s : State) :
    driveDisplay ins (s.withLinkBefore l) = (driveDisplay ins s).withLinkBefore l :=
  driveDisplay_comm (φ := fun t => t.withLinkBefore l) (fun _ => rfl) (fun d t => driverTick_withLinkBefore t l d)
    (fun _ _ => rfl) ins s

theorem driveDisplay_withInputs (ins' ins : List Input) (s : State) :
    driveDisplay ins (s.withInputs ins') = driveDisplay ins s :=
  driveDisplay_comm (φ := fun t => t.withInputs ins') (fun _ => rfl) (fun d t => driverTick_withInputs d t ins')
    (fun _ _ => rfl) ins s

/-! A display operation cut by a `rst` (R240, R263). -/

/-- A move that puts an event on the link gives no response: the response comes after the last event (R170). -/
theorem driverTick_responses_of_link {d : Bool} {s : State} (h : (driverTick d s).link ≠ s.link) :
    (driverTick d s).responses = s.responses := by
  obtain ⟨-, ht⟩ | ⟨-, ht⟩ | ⟨-, ht⟩ | ⟨-, ht⟩ | ⟨r, -, ht⟩ := driverTick_cases d s
  · rw [ht]
  · rw [ht]; rfl
  · rw [ht]; rfl
  · rw [ht]; exact transactionTick_responses d s
  · exact absurd (by rw [ht]; rfl) h

/-- Every length that the link trace passes through is reached by a cut before the operation responds: a move adds at most one
event. -/
theorem exists_cut (ins : List Input) : ∀ {s : State} {k : Nat}, s.link.length ≤ k →
    k ≤ (driveDisplay ins s).link.length →
    ∃ (n : Nat) (q : State), driveDisplay (ins.take n ++ [.rst]) s = q ∧ q.inputs = [.rst] ∧
      q.link <+: (driveDisplay ins s).link ∧ q.link.length = k ∧ q.responses = s.responses := by
  induction ins with
  | nil => exact fun hlow hhigh => ⟨0, _, rfl, rfl, List.prefix_refl _, Nat.le_antisymm hlow hhigh, rfl⟩
  | cons x rest ih =>
    intro s k hlow hhigh
    obtain rfl | hlt := Nat.eq_or_lt_of_le hlow
    · exact ⟨0, _, rfl, rfl, driveDisplay_link _ s, rfl, rfl⟩
    cases x with
    | cmd w => exact absurd hhigh (Nat.not_le_of_lt hlt)
    | rst => exact absurd hhigh (Nat.not_le_of_lt hlt)
    | tick d =>
      by_cases hfree : s.drv.stage = .free
      · rw [driveDisplay_idle hfree] at hhigh
        exact absurd hhigh (Nat.not_le_of_lt hlt)
      · rw [driveDisplay_busy hfree] at hhigh ⊢
        have hnext : (driverTick d s).link.length ≤ k := by
          obtain hl | ⟨e, hl⟩ := (driverTick_move d s).link
          · rwa [hl]
          · simpa [hl] using hlt
        obtain ⟨n, q, hq, hrst, hprefix, hlen, hresp⟩ := ih hnext hhigh
        refine ⟨n + 1, q, ?_, hrst, hprefix, hlen, ?_⟩
        · rw [List.take_succ_cons, List.cons_append, driveDisplay_busy hfree, hq]
        · obtain hsilent | ⟨hreturned, -⟩ := driverTick_responses d s
          · exact hresp.trans hsilent
          · rw [driveDisplay_idle hreturned] at hhigh
            have hlink : (driverTick d s).link ≠ s.link := fun h => Nat.not_le_of_lt hlt (h ▸ hhigh)
            exact hresp.trans (driverTick_responses_of_link hlink)

/-- A display operation prepares the same transaction in every state with this configuration and an idle driver. -/
theorem exec_display_withInputs {c : Cfg} {i : Instr} {f : Frame} {later : List Frame} (hw : i.wellFormed = true)
    (hf : displayFrames c i = some (f :: later)) :
    ∃ idx, ∀ (s : State) (ins : List Input), s.cfg = c → s.drv.stage = .free →
      exec i (s.withInputs ins) = .next (driveDisplay ins (prepareTransaction f later idx s)) := by
  refine ⟨if ∃ a v, i = .transmit a v then 0 else 1, fun s ins hcfg hs => ?_⟩
  subst hcfg
  rw [exec_display (s := s.withInputs ins) hs hw hf]
  exact congrArg Host.Outcome.next (driveDisplay_withInputs ins ins (prepareTransaction f later _ s))

/-- The state with the driver idle and nothing sent yet. -/
def State.withFreshLink (s : State) : State := { s with drv := Driver.idle, link := [] }

theorem withFreshLink_sound {s : State} (hc : cfgLegal s.cfg = true) : DriverSound s.withFreshLink := by
  obtain ⟨-, -, -, -, -, -, -, -, htimeout, -⟩ := (cfgLegal_iff s.cfg).1 hc
  exact ⟨htimeout, .inl rfl, rfl⟩

/-- Preparing a transaction replaces the whole driver, so the two states differ by the link trace alone. -/
theorem prepareTransaction_withFreshLink (f : Frame) (later : List Frame) (idx : BitVec 4) (s : State) :
    prepareTransaction f later idx s = (prepareTransaction f later idx s.withFreshLink).withLinkBefore s.link := by
  simp [prepareTransaction_eq, State.withLinkBefore, State.withFreshLink]

/-- However far a display operation has come, the strobe is low exactly while the transaction it last opened is open. -/
theorem exec_display_strobe {s q : State} {i : Instr} {f : Frame} {later : List Frame} {ins : List Input}
    {trace : List LinkEvent} (hc : cfgLegal s.cfg = true) (hs : s.drv.stage = .free) (hw : i.wellFormed = true)
    (hf : displayFrames s.cfg i = some (f :: later)) (he : exec i (s.withInputs ins) = .next q)
    (hlink : q.link = s.link ++ trace) : q.drv.strobe = .low ↔ linkFraming trace ≠ some .closed := by
  obtain ⟨idx, hexec⟩ := exec_display_withInputs hw hf
  have hsound : DriverSound (driveDisplay ins (prepareTransaction f later idx s.withFreshLink)) :=
    exec_sound (s := s.withFreshLink.withInputs ins) ((withFreshLink_sound hc).congr rfl rfl rfl)
      (hexec s.withFreshLink ins rfl rfl)
  rw [hexec s ins rfl hs, prepareTransaction_withFreshLink, driveDisplay_withLinkBefore] at he
  cases he
  obtain rfl : _ = trace := List.append_cancel_left hlink
  rw [hsound.framed]
  simpa [State.withLinkBefore] using driverConsistent_strobe hsound.consistent

/-- A display operation with its answers presented can be cut after any number of the link events of the blocking procedure. -/
theorem exec_display_cut {s : State} {i : Instr} {f : Frame} {later : List Frame} {answers : List Answer} {k : Nat}
    (hs : s.drv.stage = .free) (hw : i.wellFormed = true) (hf : displayFrames s.cfg i = some (f :: later))
    (hblocking : ∀ idx, RefinesBlocking f later idx answers s)
    (hk : k ≤ (blockingRun (f :: later) answers s.disp).1.length) :
    ∃ (n : Nat) (q : State),
      exec i (s.withInputs ((operationInputs s.cfg answers).take n ++ [.rst])) = .next q ∧
      q.inputs = [.rst] ∧ q.link = s.link ++ (blockingRun (f :: later) answers s.disp).1.take k ∧
      q.responses = s.responses := by
  obtain ⟨idx, hexec⟩ := exec_display_withInputs hw hf
  obtain ⟨r, -, hrest⟩ := hblocking idx
  have hlink : (driveDisplay (operationInputs s.cfg answers) (prepareTransaction f later idx s)).link =
      s.link ++ (blockingRun (f :: later) answers s.disp).1 := by
    have hrun := hrest []
    rw [List.append_nil] at hrun
    rw [hrun]
    rfl
  obtain ⟨n, q, hq, hrst, hprefix, hlen, hresp⟩ :=
    exists_cut (operationInputs s.cfg answers) (s := prepareTransaction f later idx s) (k := s.link.length + k)
      (Nat.le_add_right _ _) (by rw [hlink, List.length_append]; omega)
  refine ⟨n, q, ?_, hrst, ?_, hresp⟩
  · rw [hexec s _ rfl hs, hq]
  · rw [List.prefix_iff_eq_take.1 hprefix, hlen, hlink, List.take_length_add_append]

/-- Settles O55: one step of `rst` in any state; then the operation up to the cut, and the `rst` that closes what is open. -/
theorem resetInput : Obligations.ResetInput := by
  constructor
  · intro s rest hc hi
    have hhigh (h : s.drv.strobe = .high) : (applyReset (s.withInputs rest)).link = s.link :=
      applyReset_link_of_not_low (s := s.withInputs rest) (by simp [State.withInputs, h])
    exact ⟨_, step_rst hc hi, rfl, rfl, rfl, rfl, rfl, rfl, hhigh, applyReset_link_of_low (s := s.withInputs rest),
      applyReset_disp_of_free (s := s.withInputs rest), applyReset_disp_of_busy (s := s.withInputs rest)⟩
  · intro s i frames given k hc hs hw hf hb answers trace hk
    obtain ⟨-, -, -, -, -, -, -, -, ht, -⟩ := (cfgLegal_iff s.cfg).1 hc
    obtain ⟨f, later, rfl⟩ := List.exists_cons_of_ne_nil (displayFrames_ne_nil hc hf)
    obtain ⟨n, q, hexec, hrst, hlink, hresp⟩ := exec_display_cut hs hw hf
      (fun idx => driveDisplay_refinesBlocking later f idx s given ht hb) hk
    have hstep : step (s.withInputs (.cmd (encode i) :: ((operationInputs s.cfg answers).take n ++ [.rst]))) =
        .next q := (step_withInputs_cmd hc (decode_encode hw) _).trans hexec
    have hcq : cfgLegal q.cfg = true := (step_cfg hstep).symm ▸ hc
    have hstrobe : q.drv.strobe = .low ↔ linkFraming (trace.take k) ≠ some .closed :=
      exec_display_strobe hc hs hw hf hexec hlink
    refine ⟨n, applyReset (q.withInputs []), ?_, ?_, hresp, rfl, rfl⟩
    · exact (run_succ_of_step hstep 1).trans (run_succ_of_step (step_rst hcq hrst) 0)
    · by_cases hclosed : linkFraming (trace.take k) = some .closed
      · have hkept := applyReset_link_of_not_low (s := q.withInputs []) fun hlow => hstrobe.1 hlow hclosed
        rw [hkept, if_pos hclosed, List.append_nil]
        exact hlink
      · have hraised := applyReset_link_of_low (s := q.withInputs []) (hstrobe.2 hclosed)
        rw [hraised, if_neg hclosed, ← hlink]
        rfl

end Sys2Proof.Machine
end
